-- ==== Sys2Proof/Word.lean ====
section
/-! DEFINITION. The word and byte types of the machine (00_scope.md R13, R14). -/

namespace Sys2Proof

/-- A byte of program memory, data memory or a frame. -/
abbrev Byte := BitVec 8

/-- A machine word: a stack cell, `ip`, an address, an extended immediate (00_scope.md R11, R14).
`u(v)` of the spec is `v.toNat`, `s(v)` is `v.toInt` (two's complement). -/
abbrev Word := BitVec 32

end Sys2Proof
end

