-- ==== Sys2Proof/Config.lean ====
section
/-! DEFINITION. What one instance of the hardware fixes: the error codes, the byte buffers and the
construction parameters (00_scope.md R11), the liberties of the syscall hook (47_system.md R707), and
the one free value of the model, what a hook does when the state does not say it. -/

namespace Sys2Proof

/-- The nine error codes of 60_exceptions.md R900, in the listed order. -/
inductive ErrCode where
  | success
  | halted
  | badOpcode
  | stackEmpty
  | stackFull
  | dataAddressOutOfBounds
  | programAddressOutOfBounds
  | badSyscall
  | callArgOutOfRange
deriving DecidableEq, Repr

/-- The access widths of loads, stores and the hook's memory primitives (20_memory.md R212). -/
inductive Width where
  | byte
  | half
  | word
deriving DecidableEq, Repr

/-- A length-checked byte buffer (20_memory.md R200): `len` bytes at addresses `0 .. len-1`. `cells`
lists bytes by address in one canonical form (`Buffer.wf`); an address it does not list reads as 0
(DESIGN CHOICE, log 3). -/
structure Buffer where
  len : Nat
  cells : List Host.Cell
deriving DecidableEq, Repr

/-- A duty of 47_system.md R710 that a hook can break (93_implementation_defined.md row 9). -/
inductive HookBreach where
  | callsExec
  | callsErrorAck
  | callsReset
  | writesIp
  | writesSp
  | writesStackCell
  | writesProgram
deriving DecidableEq, Repr

/-- One action of the syscall hook: the primitives of 47_system.md R707, a broken duty (R710), or
never returning (93_implementation_defined.md row 10). A run of a hook is a list of these; the end of
the list is the hook's return (R709). -/
inductive HookAct where
  /-- Reads `ip`, `sp`, `err`, a stack cell, a length or a program byte: no effect. -/
  | inspect
  /-- `HPop()`. -/
  | pop
  /-- `HPush(v)`. -/
  | push (v : Word)
  /-- `HMemRead(a, n)`. -/
  | memRead (a : Word) (w : Width)
  /-- `HMemWrite(a, n, v)`. -/
  | memWrite (a : Word) (w : Width) (v : Word)
  /-- `HRaise(F)`; with `success` it breaks a duty (R710). -/
  | raise (code : ErrCode)
  /-- Any action outside the VM: not visible to the VM (47_system.md R707). The spec does not say whether
  one may be a command to the encoder or the decoder; in the model it is none, and leaves both as they
  are (DESIGN CHOICE, unsafe, log 17). -/
  | outside
  /-- A broken duty: the model refuses it. -/
  | breach (b : HookBreach)
  /-- The hook runs on for ever from here. -/
  | spin
deriving DecidableEq, Repr

/-- What a hook can see of its VM (47_system.md R707, first row; 10_state.md R113). -/
structure HookView where
  ip : Word
  sp : Nat
  stack : List Word
  program : Buffer
  data : Buffer
deriving DecidableEq, Repr

/-- FREE VALUE (log 1): what the bound hook does in its `call`-th run, for a call number and a view of
the VM, wherever the state's list of hook runs does not say it. 47_system.md R707 leaves it to the
host: the definition has no body, and nothing can be proved of its value. -/
opaque Config.hookRun (hook call : Nat) (n : Word) (view : HookView) : List HookAct

/-- The construction parameters of one instance (00_scope.md R11). -/
structure Params where
  stackCap : Nat
  program : Buffer
  data : Buffer
  hook : Option Nat
deriving DecidableEq, Repr

/-- `FRAME_MAX_PAYLOAD` (00_scope.md R11). -/
def frameMaxPayload : Nat := 63

/-- `FRAME_MAX` (00_scope.md R11). -/
def frameMax : Nat := 64

/-- The largest `STACK_CAP`, `PROG_LEN` and `DATA_LEN` (00_scope.md R11). -/
def maxLength : Nat := 2 ^ 32 - 1

/-- The parameters of `State.reset`, which the spec leaves open: the conventions of
95_test_vectors.md (STACK_CAP 8, DATA_LEN 16 with every byte 0, no hook) and no program
(PROG_LEN 0, which D36 allows). DESIGN CHOICE, unsafe, log 2. -/
def Params.conventions : Params :=
  { stackCap := 8, program := ⟨0, []⟩, data := ⟨16, []⟩, hook := none }

end Sys2Proof
end

