-- ==== Sys2Proof/Syntax.lean ====
section
/-! DEFINITION. The instructions: one constructor per row of spec/opcode_table.json (30_encoding.md R330,
R334). A constructor's field is the raw immediate of its form, 8, 16 or 32 bits (R301, R304).
`return` and `goto` are spellings of `jumpAbs` (R341). -/

namespace Sys2Proof

/-- The 182 instructions of the opcode map (30_encoding.md R334). -/
inductive Instr where
  | halt
  | drop
  | dup
  | swap
  | add
  | sub
  | mul
  | and
  | or
  | xor
  | shl
  | shrUi
  | shrSi
  | not
  | neg
  | lnot
  | eq
  | ne
  | ltUi
  | leUi
  | gtUi
  | geUi
  | ltSi
  | leSi
  | gtSi
  | geSi
  | loadU8
  | loadU16
  | loadU32
  | loadS8
  | loadS16
  | storeU8
  | storeU16
  | storeU32
  | storeU8Discard
  | storeU16Discard
  | storeU32Discard
  | dcopy
  | pcopy
  | call
  | jumpAbs
  | jumpAbsIf
  | jumpAbsIfNot
  | jumpRel
  | jumpRelIf
  | jumpRelIfNot
  | syscall
  | pushU8 (raw : BitVec 8)
  | pushS8 (raw : BitVec 8)
  | addImm8 (raw : BitVec 8)
  | subImm8 (raw : BitVec 8)
  | mulImm8 (raw : BitVec 8)
  | andImm8 (raw : BitVec 8)
  | orImm8 (raw : BitVec 8)
  | xorImm8 (raw : BitVec 8)
  | shlImm8 (raw : BitVec 8)
  | shrUiImm8 (raw : BitVec 8)
  | shrSiImm8 (raw : BitVec 8)
  | notImm8 (raw : BitVec 8)
  | negImm8 (raw : BitVec 8)
  | lnotImm8 (raw : BitVec 8)
  | eqImm8 (raw : BitVec 8)
  | neImm8 (raw : BitVec 8)
  | ltUiImm8 (raw : BitVec 8)
  | leUiImm8 (raw : BitVec 8)
  | gtUiImm8 (raw : BitVec 8)
  | geUiImm8 (raw : BitVec 8)
  | ltSiImm8 (raw : BitVec 8)
  | leSiImm8 (raw : BitVec 8)
  | gtSiImm8 (raw : BitVec 8)
  | geSiImm8 (raw : BitVec 8)
  | loadU8Imm8 (raw : BitVec 8)
  | loadU16Imm8 (raw : BitVec 8)
  | loadU32Imm8 (raw : BitVec 8)
  | loadS8Imm8 (raw : BitVec 8)
  | loadS16Imm8 (raw : BitVec 8)
  | storeU8Imm8 (raw : BitVec 8)
  | storeU16Imm8 (raw : BitVec 8)
  | storeU32Imm8 (raw : BitVec 8)
  | storeU8DiscardImm8 (raw : BitVec 8)
  | storeU16DiscardImm8 (raw : BitVec 8)
  | storeU32DiscardImm8 (raw : BitVec 8)
  | dcopyImm8 (raw : BitVec 8)
  | pcopyImm8 (raw : BitVec 8)
  | callImm8 (raw : BitVec 8)
  | jumpAbsImm8 (raw : BitVec 8)
  | jumpAbsIfImm8 (raw : BitVec 8)
  | jumpAbsIfNotImm8 (raw : BitVec 8)
  | jumpRelImm8 (raw : BitVec 8)
  | jumpRelIfImm8 (raw : BitVec 8)
  | jumpRelIfNotImm8 (raw : BitVec 8)
  | syscallImm8 (raw : BitVec 8)
  | pushU16 (raw : BitVec 16)
  | pushS16 (raw : BitVec 16)
  | addImm16 (raw : BitVec 16)
  | subImm16 (raw : BitVec 16)
  | mulImm16 (raw : BitVec 16)
  | andImm16 (raw : BitVec 16)
  | orImm16 (raw : BitVec 16)
  | xorImm16 (raw : BitVec 16)
  | shlImm16 (raw : BitVec 16)
  | shrUiImm16 (raw : BitVec 16)
  | shrSiImm16 (raw : BitVec 16)
  | notImm16 (raw : BitVec 16)
  | negImm16 (raw : BitVec 16)
  | lnotImm16 (raw : BitVec 16)
  | eqImm16 (raw : BitVec 16)
  | neImm16 (raw : BitVec 16)
  | ltUiImm16 (raw : BitVec 16)
  | leUiImm16 (raw : BitVec 16)
  | gtUiImm16 (raw : BitVec 16)
  | geUiImm16 (raw : BitVec 16)
  | ltSiImm16 (raw : BitVec 16)
  | leSiImm16 (raw : BitVec 16)
  | gtSiImm16 (raw : BitVec 16)
  | geSiImm16 (raw : BitVec 16)
  | loadU8Imm16 (raw : BitVec 16)
  | loadU16Imm16 (raw : BitVec 16)
  | loadU32Imm16 (raw : BitVec 16)
  | loadS8Imm16 (raw : BitVec 16)
  | loadS16Imm16 (raw : BitVec 16)
  | storeU8Imm16 (raw : BitVec 16)
  | storeU16Imm16 (raw : BitVec 16)
  | storeU32Imm16 (raw : BitVec 16)
  | storeU8DiscardImm16 (raw : BitVec 16)
  | storeU16DiscardImm16 (raw : BitVec 16)
  | storeU32DiscardImm16 (raw : BitVec 16)
  | dcopyImm16 (raw : BitVec 16)
  | pcopyImm16 (raw : BitVec 16)
  | callImm16 (raw : BitVec 16)
  | jumpAbsImm16 (raw : BitVec 16)
  | jumpAbsIfImm16 (raw : BitVec 16)
  | jumpAbsIfNotImm16 (raw : BitVec 16)
  | jumpRelImm16 (raw : BitVec 16)
  | jumpRelIfImm16 (raw : BitVec 16)
  | jumpRelIfNotImm16 (raw : BitVec 16)
  | syscallImm16 (raw : BitVec 16)
  | pushU32 (raw : BitVec 32)
  | pushS32 (raw : BitVec 32)
  | addImm32 (raw : BitVec 32)
  | subImm32 (raw : BitVec 32)
  | mulImm32 (raw : BitVec 32)
  | andImm32 (raw : BitVec 32)
  | orImm32 (raw : BitVec 32)
  | xorImm32 (raw : BitVec 32)
  | shlImm32 (raw : BitVec 32)
  | shrUiImm32 (raw : BitVec 32)
  | shrSiImm32 (raw : BitVec 32)
  | notImm32 (raw : BitVec 32)
  | negImm32 (raw : BitVec 32)
  | lnotImm32 (raw : BitVec 32)
  | eqImm32 (raw : BitVec 32)
  | neImm32 (raw : BitVec 32)
  | ltUiImm32 (raw : BitVec 32)
  | leUiImm32 (raw : BitVec 32)
  | gtUiImm32 (raw : BitVec 32)
  | geUiImm32 (raw : BitVec 32)
  | ltSiImm32 (raw : BitVec 32)
  | leSiImm32 (raw : BitVec 32)
  | gtSiImm32 (raw : BitVec 32)
  | geSiImm32 (raw : BitVec 32)
  | loadU8Imm32 (raw : BitVec 32)
  | loadU16Imm32 (raw : BitVec 32)
  | loadU32Imm32 (raw : BitVec 32)
  | loadS8Imm32 (raw : BitVec 32)
  | loadS16Imm32 (raw : BitVec 32)
  | storeU8Imm32 (raw : BitVec 32)
  | storeU16Imm32 (raw : BitVec 32)
  | storeU32Imm32 (raw : BitVec 32)
  | storeU8DiscardImm32 (raw : BitVec 32)
  | storeU16DiscardImm32 (raw : BitVec 32)
  | storeU32DiscardImm32 (raw : BitVec 32)
  | dcopyImm32 (raw : BitVec 32)
  | pcopyImm32 (raw : BitVec 32)
  | callImm32 (raw : BitVec 32)
  | jumpAbsImm32 (raw : BitVec 32)
  | jumpAbsIfImm32 (raw : BitVec 32)
  | jumpAbsIfNotImm32 (raw : BitVec 32)
  | jumpRelImm32 (raw : BitVec 32)
  | jumpRelIfImm32 (raw : BitVec 32)
  | jumpRelIfNotImm32 (raw : BitVec 32)
  | syscallImm32 (raw : BitVec 32)
deriving DecidableEq, Repr

end Sys2Proof
end

