-- ==== Sys2Proof/WellFormed.lean ====
section
/-! DEFINITION. The checks on terms a user of the model writes: opcode bytes, assembler lines,
construction parameters and hook runs. An `Instr` itself needs no check: its one field has the exact
width of its raw immediate, so every term of the type is an instruction. -/

namespace Sys2Proof

/-- The four forms of 30_encoding.md R301. -/
inductive Form where
  | S
  | I8
  | I16
  | I32
deriving DecidableEq, Repr

/-- The width in bits of a form's immediate (30_encoding.md R301). -/
def Form.width : Form → Nat
  | .S => 0
  | .I8 => 8
  | .I16 => 16
  | .I32 => 32

/-- The reserved selectors of 30_encoding.md R332; a selector has 6 bits. -/
def selectorReserved (k : Nat) : Bool :=
  k == 0x06 || k == 0x07 || k == 0x1E || k == 0x1F || k == 0x2D || k == 0x2E || k == 0x2F ||
    (0x37 ≤ k && k ≤ 0x3E) || 0x40 ≤ k

/-- The legal forms of a selector (30_encoding.md R309): the pushes have no form S; halt, drop, dup
and swap have only form S; a reserved selector has none. -/
def formLegal (k : Nat) (f : Form) : Bool :=
  if selectorReserved k then false
  else if k == 0x01 || k == 0x02 then f != .S
  else if k == 0x00 || k == 0x03 || k == 0x04 || k == 0x05 then f == .S
  else true

/-- The form an opcode byte's class bits 7-6 give (30_encoding.md R300, R301). -/
def formOf (opc : Byte) : Form :=
  match opc.toNat / 64 with
  | 0 => .S
  | 1 => .I8
  | 2 => .I16
  | _ => .I32

/-- Whether an opcode byte is one of the 182 instructions (30_encoding.md R309, R332). -/
def opcodeLegal (opc : Byte) : Bool :=
  formLegal (opc.toNat % 64) (formOf opc)

/-- One line of the assembler syntax of 30_encoding.md R340, its mnemonic already looked up: a
selector, a form and an immediate (0 in form S). Labels, comments and raw bytes are text handling, not
part of the machine (log 15). -/
structure AsmLine where
  selector : Nat
  form : Form
  value : Int
deriving DecidableEq, Repr

/-- The immediate range of 30_encoding.md R340: a form of width N accepts `-2^(N-1) .. 2^N - 1`. -/
def AsmLine.inRange (l : AsmLine) : Bool :=
  match l.form with
  | .S => l.value == 0
  | f => -(2 : Int) ^ (f.width - 1) ≤ l.value && l.value ≤ (2 : Int) ^ f.width - 1

/-- An assembler line is well formed when its form is legal for its selector and its immediate is in
the form's range. -/
def AsmLine.wellFormed (l : AsmLine) : Bool :=
  formLegal l.selector l.form && l.inRange

/-- Cells in canonical form above a bound: addresses strictly rising from `lo` and below `len`, and no
cell holds the byte that an unlisted address reads as. -/
def cellsWf (len : Nat) : Nat → List Host.Cell → Bool
  | _, [] => true
  | lo, (a, v) :: rest => lo ≤ a && a < len && v != 0 && cellsWf len (a + 1) rest

/-- A buffer is well formed: its length fits 32 bits (00_scope.md R11) and its cells are canonical. -/
def Buffer.wf (b : Buffer) : Bool :=
  b.len ≤ maxLength && cellsWf b.len 0 b.cells

/-- The ranges of 00_scope.md R11: `1 <= STACK_CAP <= 2^32 - 1`, and both buffers well formed. -/
def Params.wellFormed (p : Params) : Bool :=
  1 ≤ p.stackCap && p.stackCap ≤ maxLength && p.program.wf && p.data.wf

/-- A hook action that keeps the duties of 47_system.md R710 and comes to an end. -/
def HookAct.dutiful : HookAct → Bool
  | .raise .success => false
  | .breach _ => false
  | .spin => false
  | _ => true

/-- A hook run all of whose actions are dutiful. -/
def hookRunDutiful (run : List HookAct) : Bool :=
  run.all HookAct.dutiful

end Sys2Proof
end

