-- ==== Sys2Proof/Decode.lean ====
section
/-! DEFINITION. Decoding (30_encoding.md R300-R304, R317, R330), total on any bytes and rejecting by name,
and the encoder, written from the opcode bytes of R334. The byte-order helpers stand here too. -/

namespace Sys2Proof

/-- The word whose bytes, least significant first, are the given ones: little-endian reading, zero
extended (20_memory.md R206, R207). -/
def leWord : List Byte → Word
  | [] => 0
  | b :: rest => b.setWidth 32 ||| (leWord rest <<< 8)

/-- The low `n` bytes of a word, least significant first (20_memory.md R208). -/
def wordBytes : Nat → Word → List Byte
  | 0, _ => []
  | n + 1, v => v.setWidth 8 :: wordBytes n (v >>> 8)

/-- How many immediate bytes follow an opcode byte, by its class alone (30_encoding.md R301, R302). -/
def immLength (opc : Byte) : Nat :=
  match opc.toNat / 64 with
  | 0 => 0
  | 1 => 1
  | 2 => 2
  | _ => 4

/-- The selector of an opcode byte, bits 5-0 (30_encoding.md R300). -/
def selector (opc : Byte) : Nat := opc.toNat % 64

/-- The operation of a selector in form S (30_encoding.md R330). -/
def decodeS (k : Nat) : Option Instr :=
  match k with
  | 0x00 => some .halt
  | 0x03 => some .drop
  | 0x04 => some .dup
  | 0x05 => some .swap
  | 0x08 => some .add
  | 0x09 => some .sub
  | 0x0A => some .mul
  | 0x0B => some .and
  | 0x0C => some .or
  | 0x0D => some .xor
  | 0x0E => some .shl
  | 0x0F => some .shrUi
  | 0x10 => some .shrSi
  | 0x11 => some .not
  | 0x12 => some .neg
  | 0x13 => some .lnot
  | 0x14 => some .eq
  | 0x15 => some .ne
  | 0x16 => some .ltUi
  | 0x17 => some .leUi
  | 0x18 => some .gtUi
  | 0x19 => some .geUi
  | 0x1A => some .ltSi
  | 0x1B => some .leSi
  | 0x1C => some .gtSi
  | 0x1D => some .geSi
  | 0x20 => some .loadU8
  | 0x21 => some .loadU16
  | 0x22 => some .loadU32
  | 0x23 => some .loadS8
  | 0x24 => some .loadS16
  | 0x25 => some .storeU8
  | 0x26 => some .storeU16
  | 0x27 => some .storeU32
  | 0x28 => some .storeU8Discard
  | 0x29 => some .storeU16Discard
  | 0x2A => some .storeU32Discard
  | 0x2B => some .dcopy
  | 0x2C => some .pcopy
  | 0x30 => some .call
  | 0x31 => some .jumpAbs
  | 0x32 => some .jumpAbsIf
  | 0x33 => some .jumpAbsIfNot
  | 0x34 => some .jumpRel
  | 0x35 => some .jumpRelIf
  | 0x36 => some .jumpRelIfNot
  | 0x3F => some .syscall
  | _ => none

/-- The operation of a selector in form I8 (30_encoding.md R330). -/
def decodeI8 (k : Nat) (raw : BitVec 8) : Option Instr :=
  match k with
  | 0x01 => some (.pushU8 raw)
  | 0x02 => some (.pushS8 raw)
  | 0x08 => some (.addImm8 raw)
  | 0x09 => some (.subImm8 raw)
  | 0x0A => some (.mulImm8 raw)
  | 0x0B => some (.andImm8 raw)
  | 0x0C => some (.orImm8 raw)
  | 0x0D => some (.xorImm8 raw)
  | 0x0E => some (.shlImm8 raw)
  | 0x0F => some (.shrUiImm8 raw)
  | 0x10 => some (.shrSiImm8 raw)
  | 0x11 => some (.notImm8 raw)
  | 0x12 => some (.negImm8 raw)
  | 0x13 => some (.lnotImm8 raw)
  | 0x14 => some (.eqImm8 raw)
  | 0x15 => some (.neImm8 raw)
  | 0x16 => some (.ltUiImm8 raw)
  | 0x17 => some (.leUiImm8 raw)
  | 0x18 => some (.gtUiImm8 raw)
  | 0x19 => some (.geUiImm8 raw)
  | 0x1A => some (.ltSiImm8 raw)
  | 0x1B => some (.leSiImm8 raw)
  | 0x1C => some (.gtSiImm8 raw)
  | 0x1D => some (.geSiImm8 raw)
  | 0x20 => some (.loadU8Imm8 raw)
  | 0x21 => some (.loadU16Imm8 raw)
  | 0x22 => some (.loadU32Imm8 raw)
  | 0x23 => some (.loadS8Imm8 raw)
  | 0x24 => some (.loadS16Imm8 raw)
  | 0x25 => some (.storeU8Imm8 raw)
  | 0x26 => some (.storeU16Imm8 raw)
  | 0x27 => some (.storeU32Imm8 raw)
  | 0x28 => some (.storeU8DiscardImm8 raw)
  | 0x29 => some (.storeU16DiscardImm8 raw)
  | 0x2A => some (.storeU32DiscardImm8 raw)
  | 0x2B => some (.dcopyImm8 raw)
  | 0x2C => some (.pcopyImm8 raw)
  | 0x30 => some (.callImm8 raw)
  | 0x31 => some (.jumpAbsImm8 raw)
  | 0x32 => some (.jumpAbsIfImm8 raw)
  | 0x33 => some (.jumpAbsIfNotImm8 raw)
  | 0x34 => some (.jumpRelImm8 raw)
  | 0x35 => some (.jumpRelIfImm8 raw)
  | 0x36 => some (.jumpRelIfNotImm8 raw)
  | 0x3F => some (.syscallImm8 raw)
  | _ => none

/-- The operation of a selector in form I16 (30_encoding.md R330). -/
def decodeI16 (k : Nat) (raw : BitVec 16) : Option Instr :=
  match k with
  | 0x01 => some (.pushU16 raw)
  | 0x02 => some (.pushS16 raw)
  | 0x08 => some (.addImm16 raw)
  | 0x09 => some (.subImm16 raw)
  | 0x0A => some (.mulImm16 raw)
  | 0x0B => some (.andImm16 raw)
  | 0x0C => some (.orImm16 raw)
  | 0x0D => some (.xorImm16 raw)
  | 0x0E => some (.shlImm16 raw)
  | 0x0F => some (.shrUiImm16 raw)
  | 0x10 => some (.shrSiImm16 raw)
  | 0x11 => some (.notImm16 raw)
  | 0x12 => some (.negImm16 raw)
  | 0x13 => some (.lnotImm16 raw)
  | 0x14 => some (.eqImm16 raw)
  | 0x15 => some (.neImm16 raw)
  | 0x16 => some (.ltUiImm16 raw)
  | 0x17 => some (.leUiImm16 raw)
  | 0x18 => some (.gtUiImm16 raw)
  | 0x19 => some (.geUiImm16 raw)
  | 0x1A => some (.ltSiImm16 raw)
  | 0x1B => some (.leSiImm16 raw)
  | 0x1C => some (.gtSiImm16 raw)
  | 0x1D => some (.geSiImm16 raw)
  | 0x20 => some (.loadU8Imm16 raw)
  | 0x21 => some (.loadU16Imm16 raw)
  | 0x22 => some (.loadU32Imm16 raw)
  | 0x23 => some (.loadS8Imm16 raw)
  | 0x24 => some (.loadS16Imm16 raw)
  | 0x25 => some (.storeU8Imm16 raw)
  | 0x26 => some (.storeU16Imm16 raw)
  | 0x27 => some (.storeU32Imm16 raw)
  | 0x28 => some (.storeU8DiscardImm16 raw)
  | 0x29 => some (.storeU16DiscardImm16 raw)
  | 0x2A => some (.storeU32DiscardImm16 raw)
  | 0x2B => some (.dcopyImm16 raw)
  | 0x2C => some (.pcopyImm16 raw)
  | 0x30 => some (.callImm16 raw)
  | 0x31 => some (.jumpAbsImm16 raw)
  | 0x32 => some (.jumpAbsIfImm16 raw)
  | 0x33 => some (.jumpAbsIfNotImm16 raw)
  | 0x34 => some (.jumpRelImm16 raw)
  | 0x35 => some (.jumpRelIfImm16 raw)
  | 0x36 => some (.jumpRelIfNotImm16 raw)
  | 0x3F => some (.syscallImm16 raw)
  | _ => none

/-- The operation of a selector in form I32 (30_encoding.md R330). -/
def decodeI32 (k : Nat) (raw : BitVec 32) : Option Instr :=
  match k with
  | 0x01 => some (.pushU32 raw)
  | 0x02 => some (.pushS32 raw)
  | 0x08 => some (.addImm32 raw)
  | 0x09 => some (.subImm32 raw)
  | 0x0A => some (.mulImm32 raw)
  | 0x0B => some (.andImm32 raw)
  | 0x0C => some (.orImm32 raw)
  | 0x0D => some (.xorImm32 raw)
  | 0x0E => some (.shlImm32 raw)
  | 0x0F => some (.shrUiImm32 raw)
  | 0x10 => some (.shrSiImm32 raw)
  | 0x11 => some (.notImm32 raw)
  | 0x12 => some (.negImm32 raw)
  | 0x13 => some (.lnotImm32 raw)
  | 0x14 => some (.eqImm32 raw)
  | 0x15 => some (.neImm32 raw)
  | 0x16 => some (.ltUiImm32 raw)
  | 0x17 => some (.leUiImm32 raw)
  | 0x18 => some (.gtUiImm32 raw)
  | 0x19 => some (.geUiImm32 raw)
  | 0x1A => some (.ltSiImm32 raw)
  | 0x1B => some (.leSiImm32 raw)
  | 0x1C => some (.gtSiImm32 raw)
  | 0x1D => some (.geSiImm32 raw)
  | 0x20 => some (.loadU8Imm32 raw)
  | 0x21 => some (.loadU16Imm32 raw)
  | 0x22 => some (.loadU32Imm32 raw)
  | 0x23 => some (.loadS8Imm32 raw)
  | 0x24 => some (.loadS16Imm32 raw)
  | 0x25 => some (.storeU8Imm32 raw)
  | 0x26 => some (.storeU16Imm32 raw)
  | 0x27 => some (.storeU32Imm32 raw)
  | 0x28 => some (.storeU8DiscardImm32 raw)
  | 0x29 => some (.storeU16DiscardImm32 raw)
  | 0x2A => some (.storeU32DiscardImm32 raw)
  | 0x2B => some (.dcopyImm32 raw)
  | 0x2C => some (.pcopyImm32 raw)
  | 0x30 => some (.callImm32 raw)
  | 0x31 => some (.jumpAbsImm32 raw)
  | 0x32 => some (.jumpAbsIfImm32 raw)
  | 0x33 => some (.jumpAbsIfNotImm32 raw)
  | 0x34 => some (.jumpRelImm32 raw)
  | 0x35 => some (.jumpRelIfImm32 raw)
  | 0x36 => some (.jumpRelIfNotImm32 raw)
  | 0x3F => some (.syscallImm32 raw)
  | _ => none

/-- The instruction of an opcode byte and its raw immediate (30_encoding.md R317, R318); none for a
reserved selector or an illegal form. -/
def decodeOp (opc : Byte) (raw : Word) : Option Instr :=
  match opc.toNat / 64 with
  | 0 => decodeS (selector opc)
  | 1 => decodeI8 (selector opc) (raw.setWidth 8)
  | 2 => decodeI16 (selector opc) (raw.setWidth 16)
  | _ => decodeI32 (selector opc) raw

/-- Why bytes are no instruction. -/
inductive DecodeReject where
  /-- There is no opcode byte. -/
  | noBytes
  /-- Fewer immediate bytes than the class asks for. -/
  | immediateCutShort
  /-- A reserved selector (30_encoding.md R332). -/
  | reservedSelector (k : Nat)
  /-- A form the selector does not have (30_encoding.md R309). -/
  | illegalForm (k : Nat)
deriving DecidableEq, Repr

/-- What decoding answers: an instruction and the bytes after it, or a rejection. -/
inductive Decoded where
  | instr (i : Instr) (rest : List Byte)
  | rejected (r : DecodeReject)
deriving DecidableEq, Repr

/-- Decodes the instruction at the front of a list of bytes. -/
def decode (bytes : List Byte) : Decoded :=
  match bytes with
  | [] => .rejected .noBytes
  | opc :: rest =>
    if rest.length < immLength opc then .rejected .immediateCutShort
    else
      match decodeOp opc (leWord (rest.take (immLength opc))) with
      | some i => .instr i (rest.drop (immLength opc))
      | none =>
        if selectorReserved (selector opc) then .rejected (.reservedSelector (selector opc))
        else .rejected (.illegalForm (selector opc))

/-- The bytes of an instruction whose bits are `w`, numbered as spec/opcode_table.json numbers them: the
low `nbits` bits, the bits above zero, `count` bytes in all. -/
def tableBytes (count nbits w : Nat) : List Byte :=
  (List.range count).map fun j => BitVec.ofNat 8 (w % 2 ^ nbits / 2 ^ (8 * j))

/-- The instruction the decoder reads from a word of spec/opcode_table.json. -/
def decodeTableWord (nbits w : Nat) : Option Instr :=
  match decode (tableBytes 5 nbits w) with
  | .instr i _ => some i
  | .rejected _ => none

/-- The little-endian immediate bytes of a raw immediate (30_encoding.md R303). -/
def immBytes {n : Nat} (count : Nat) (raw : BitVec n) : List Byte :=
  wordBytes count (raw.setWidth 32)

/-- The bytes of an instruction, from the opcode map of 30_encoding.md R334. -/
def encode (i : Instr) : List Byte :=
  match i with
  | .halt => [0x00]
  | .drop => [0x03]
  | .dup => [0x04]
  | .swap => [0x05]
  | .add => [0x08]
  | .sub => [0x09]
  | .mul => [0x0A]
  | .and => [0x0B]
  | .or => [0x0C]
  | .xor => [0x0D]
  | .shl => [0x0E]
  | .shrUi => [0x0F]
  | .shrSi => [0x10]
  | .not => [0x11]
  | .neg => [0x12]
  | .lnot => [0x13]
  | .eq => [0x14]
  | .ne => [0x15]
  | .ltUi => [0x16]
  | .leUi => [0x17]
  | .gtUi => [0x18]
  | .geUi => [0x19]
  | .ltSi => [0x1A]
  | .leSi => [0x1B]
  | .gtSi => [0x1C]
  | .geSi => [0x1D]
  | .loadU8 => [0x20]
  | .loadU16 => [0x21]
  | .loadU32 => [0x22]
  | .loadS8 => [0x23]
  | .loadS16 => [0x24]
  | .storeU8 => [0x25]
  | .storeU16 => [0x26]
  | .storeU32 => [0x27]
  | .storeU8Discard => [0x28]
  | .storeU16Discard => [0x29]
  | .storeU32Discard => [0x2A]
  | .dcopy => [0x2B]
  | .pcopy => [0x2C]
  | .call => [0x30]
  | .jumpAbs => [0x31]
  | .jumpAbsIf => [0x32]
  | .jumpAbsIfNot => [0x33]
  | .jumpRel => [0x34]
  | .jumpRelIf => [0x35]
  | .jumpRelIfNot => [0x36]
  | .syscall => [0x3F]
  | .pushU8 raw => 0x41 :: immBytes 1 raw
  | .pushS8 raw => 0x42 :: immBytes 1 raw
  | .addImm8 raw => 0x48 :: immBytes 1 raw
  | .subImm8 raw => 0x49 :: immBytes 1 raw
  | .mulImm8 raw => 0x4A :: immBytes 1 raw
  | .andImm8 raw => 0x4B :: immBytes 1 raw
  | .orImm8 raw => 0x4C :: immBytes 1 raw
  | .xorImm8 raw => 0x4D :: immBytes 1 raw
  | .shlImm8 raw => 0x4E :: immBytes 1 raw
  | .shrUiImm8 raw => 0x4F :: immBytes 1 raw
  | .shrSiImm8 raw => 0x50 :: immBytes 1 raw
  | .notImm8 raw => 0x51 :: immBytes 1 raw
  | .negImm8 raw => 0x52 :: immBytes 1 raw
  | .lnotImm8 raw => 0x53 :: immBytes 1 raw
  | .eqImm8 raw => 0x54 :: immBytes 1 raw
  | .neImm8 raw => 0x55 :: immBytes 1 raw
  | .ltUiImm8 raw => 0x56 :: immBytes 1 raw
  | .leUiImm8 raw => 0x57 :: immBytes 1 raw
  | .gtUiImm8 raw => 0x58 :: immBytes 1 raw
  | .geUiImm8 raw => 0x59 :: immBytes 1 raw
  | .ltSiImm8 raw => 0x5A :: immBytes 1 raw
  | .leSiImm8 raw => 0x5B :: immBytes 1 raw
  | .gtSiImm8 raw => 0x5C :: immBytes 1 raw
  | .geSiImm8 raw => 0x5D :: immBytes 1 raw
  | .loadU8Imm8 raw => 0x60 :: immBytes 1 raw
  | .loadU16Imm8 raw => 0x61 :: immBytes 1 raw
  | .loadU32Imm8 raw => 0x62 :: immBytes 1 raw
  | .loadS8Imm8 raw => 0x63 :: immBytes 1 raw
  | .loadS16Imm8 raw => 0x64 :: immBytes 1 raw
  | .storeU8Imm8 raw => 0x65 :: immBytes 1 raw
  | .storeU16Imm8 raw => 0x66 :: immBytes 1 raw
  | .storeU32Imm8 raw => 0x67 :: immBytes 1 raw
  | .storeU8DiscardImm8 raw => 0x68 :: immBytes 1 raw
  | .storeU16DiscardImm8 raw => 0x69 :: immBytes 1 raw
  | .storeU32DiscardImm8 raw => 0x6A :: immBytes 1 raw
  | .dcopyImm8 raw => 0x6B :: immBytes 1 raw
  | .pcopyImm8 raw => 0x6C :: immBytes 1 raw
  | .callImm8 raw => 0x70 :: immBytes 1 raw
  | .jumpAbsImm8 raw => 0x71 :: immBytes 1 raw
  | .jumpAbsIfImm8 raw => 0x72 :: immBytes 1 raw
  | .jumpAbsIfNotImm8 raw => 0x73 :: immBytes 1 raw
  | .jumpRelImm8 raw => 0x74 :: immBytes 1 raw
  | .jumpRelIfImm8 raw => 0x75 :: immBytes 1 raw
  | .jumpRelIfNotImm8 raw => 0x76 :: immBytes 1 raw
  | .syscallImm8 raw => 0x7F :: immBytes 1 raw
  | .pushU16 raw => 0x81 :: immBytes 2 raw
  | .pushS16 raw => 0x82 :: immBytes 2 raw
  | .addImm16 raw => 0x88 :: immBytes 2 raw
  | .subImm16 raw => 0x89 :: immBytes 2 raw
  | .mulImm16 raw => 0x8A :: immBytes 2 raw
  | .andImm16 raw => 0x8B :: immBytes 2 raw
  | .orImm16 raw => 0x8C :: immBytes 2 raw
  | .xorImm16 raw => 0x8D :: immBytes 2 raw
  | .shlImm16 raw => 0x8E :: immBytes 2 raw
  | .shrUiImm16 raw => 0x8F :: immBytes 2 raw
  | .shrSiImm16 raw => 0x90 :: immBytes 2 raw
  | .notImm16 raw => 0x91 :: immBytes 2 raw
  | .negImm16 raw => 0x92 :: immBytes 2 raw
  | .lnotImm16 raw => 0x93 :: immBytes 2 raw
  | .eqImm16 raw => 0x94 :: immBytes 2 raw
  | .neImm16 raw => 0x95 :: immBytes 2 raw
  | .ltUiImm16 raw => 0x96 :: immBytes 2 raw
  | .leUiImm16 raw => 0x97 :: immBytes 2 raw
  | .gtUiImm16 raw => 0x98 :: immBytes 2 raw
  | .geUiImm16 raw => 0x99 :: immBytes 2 raw
  | .ltSiImm16 raw => 0x9A :: immBytes 2 raw
  | .leSiImm16 raw => 0x9B :: immBytes 2 raw
  | .gtSiImm16 raw => 0x9C :: immBytes 2 raw
  | .geSiImm16 raw => 0x9D :: immBytes 2 raw
  | .loadU8Imm16 raw => 0xA0 :: immBytes 2 raw
  | .loadU16Imm16 raw => 0xA1 :: immBytes 2 raw
  | .loadU32Imm16 raw => 0xA2 :: immBytes 2 raw
  | .loadS8Imm16 raw => 0xA3 :: immBytes 2 raw
  | .loadS16Imm16 raw => 0xA4 :: immBytes 2 raw
  | .storeU8Imm16 raw => 0xA5 :: immBytes 2 raw
  | .storeU16Imm16 raw => 0xA6 :: immBytes 2 raw
  | .storeU32Imm16 raw => 0xA7 :: immBytes 2 raw
  | .storeU8DiscardImm16 raw => 0xA8 :: immBytes 2 raw
  | .storeU16DiscardImm16 raw => 0xA9 :: immBytes 2 raw
  | .storeU32DiscardImm16 raw => 0xAA :: immBytes 2 raw
  | .dcopyImm16 raw => 0xAB :: immBytes 2 raw
  | .pcopyImm16 raw => 0xAC :: immBytes 2 raw
  | .callImm16 raw => 0xB0 :: immBytes 2 raw
  | .jumpAbsImm16 raw => 0xB1 :: immBytes 2 raw
  | .jumpAbsIfImm16 raw => 0xB2 :: immBytes 2 raw
  | .jumpAbsIfNotImm16 raw => 0xB3 :: immBytes 2 raw
  | .jumpRelImm16 raw => 0xB4 :: immBytes 2 raw
  | .jumpRelIfImm16 raw => 0xB5 :: immBytes 2 raw
  | .jumpRelIfNotImm16 raw => 0xB6 :: immBytes 2 raw
  | .syscallImm16 raw => 0xBF :: immBytes 2 raw
  | .pushU32 raw => 0xC1 :: immBytes 4 raw
  | .pushS32 raw => 0xC2 :: immBytes 4 raw
  | .addImm32 raw => 0xC8 :: immBytes 4 raw
  | .subImm32 raw => 0xC9 :: immBytes 4 raw
  | .mulImm32 raw => 0xCA :: immBytes 4 raw
  | .andImm32 raw => 0xCB :: immBytes 4 raw
  | .orImm32 raw => 0xCC :: immBytes 4 raw
  | .xorImm32 raw => 0xCD :: immBytes 4 raw
  | .shlImm32 raw => 0xCE :: immBytes 4 raw
  | .shrUiImm32 raw => 0xCF :: immBytes 4 raw
  | .shrSiImm32 raw => 0xD0 :: immBytes 4 raw
  | .notImm32 raw => 0xD1 :: immBytes 4 raw
  | .negImm32 raw => 0xD2 :: immBytes 4 raw
  | .lnotImm32 raw => 0xD3 :: immBytes 4 raw
  | .eqImm32 raw => 0xD4 :: immBytes 4 raw
  | .neImm32 raw => 0xD5 :: immBytes 4 raw
  | .ltUiImm32 raw => 0xD6 :: immBytes 4 raw
  | .leUiImm32 raw => 0xD7 :: immBytes 4 raw
  | .gtUiImm32 raw => 0xD8 :: immBytes 4 raw
  | .geUiImm32 raw => 0xD9 :: immBytes 4 raw
  | .ltSiImm32 raw => 0xDA :: immBytes 4 raw
  | .leSiImm32 raw => 0xDB :: immBytes 4 raw
  | .gtSiImm32 raw => 0xDC :: immBytes 4 raw
  | .geSiImm32 raw => 0xDD :: immBytes 4 raw
  | .loadU8Imm32 raw => 0xE0 :: immBytes 4 raw
  | .loadU16Imm32 raw => 0xE1 :: immBytes 4 raw
  | .loadU32Imm32 raw => 0xE2 :: immBytes 4 raw
  | .loadS8Imm32 raw => 0xE3 :: immBytes 4 raw
  | .loadS16Imm32 raw => 0xE4 :: immBytes 4 raw
  | .storeU8Imm32 raw => 0xE5 :: immBytes 4 raw
  | .storeU16Imm32 raw => 0xE6 :: immBytes 4 raw
  | .storeU32Imm32 raw => 0xE7 :: immBytes 4 raw
  | .storeU8DiscardImm32 raw => 0xE8 :: immBytes 4 raw
  | .storeU16DiscardImm32 raw => 0xE9 :: immBytes 4 raw
  | .storeU32DiscardImm32 raw => 0xEA :: immBytes 4 raw
  | .dcopyImm32 raw => 0xEB :: immBytes 4 raw
  | .pcopyImm32 raw => 0xEC :: immBytes 4 raw
  | .callImm32 raw => 0xF0 :: immBytes 4 raw
  | .jumpAbsImm32 raw => 0xF1 :: immBytes 4 raw
  | .jumpAbsIfImm32 raw => 0xF2 :: immBytes 4 raw
  | .jumpAbsIfNotImm32 raw => 0xF3 :: immBytes 4 raw
  | .jumpRelImm32 raw => 0xF4 :: immBytes 4 raw
  | .jumpRelIfImm32 raw => 0xF5 :: immBytes 4 raw
  | .jumpRelIfNotImm32 raw => 0xF6 :: immBytes 4 raw
  | .syscallImm32 raw => 0xFF :: immBytes 4 raw

/-- The instruction an assembler line stands for (30_encoding.md R340): the low bits of its immediate,
in its form; none where the line is not well formed. -/
def assemble (l : AsmLine) : Option Instr :=
  if l.wellFormed then
    match l.form with
    | .S => decodeS l.selector
    | .I8 => decodeI8 l.selector (BitVec.ofInt 8 l.value)
    | .I16 => decodeI16 l.selector (BitVec.ofInt 16 l.value)
    | .I32 => decodeI32 l.selector (BitVec.ofInt 32 l.value)
  else none

end Sys2Proof
end

