-- ==== Sys2Proof/Machine/State.lean ====
section
/-! DEFINITION. The state of the machine: the VM core (10_state.md R100-R106), the frame encoder and
decoder (R120, R121), and, as plain data, the host's side of the interface; the reasons a step can
stop; the state after construction and reset. -/

namespace Sys2Proof.Machine

open Sys2Proof

/-- The frame encoder (10_state.md R120). `payload` is `enc_payload[0 .. 62]`. -/
structure Encoder where
  /-- The frame-write callback is bound (48_frame_codec.md R751). -/
  bound : Bool
  payload : List Byte
  count : Nat
  final : Bool
  delim : Bool
deriving DecidableEq, Repr

/-- The frame decoder (10_state.md R121). `buf` is `dec_buf[0 .. 63]`. -/
structure Decoder where
  /-- The read callback and the three event callbacks are bound (48_frame_codec.md R770). -/
  bound : Bool
  buf : List Byte
  idx : Nat
deriving DecidableEq, Repr

/-- The codec's result codes (48_frame_codec.md R750). -/
inductive CodecResult where
  | ok
  | zeroLength
  | noData
  | nullArgument
deriving DecidableEq, Repr

/-- What the host can inspect when it has control (60_exceptions.md R925, 10_state.md R110). -/
inductive Inspected where
  | ip
  | sp
  | err
  /-- The stack cell `stack[i]`, live or free. -/
  | cell (i : Nat)
  /-- The data byte at an address. -/
  | dataByte (a : Nat)
deriving DecidableEq, Repr

/-- What a host call returns: nothing, an error code (that of `exec`, 60_exceptions.md R910, or an
inspected `err`), a codec result (48_frame_codec.md R750), or another inspected value (R925): a word
(`ip`, a stack cell), a number of free slots (`sp`), a data byte. -/
inductive HostReturn where
  | nothing
  | err (c : ErrCode)
  | codec (r : CodecResult)
  | word (v : Word)
  | slots (n : Nat)
  | byte (b : Byte)
deriving DecidableEq, Repr

/-- A callback of the decoder (48_frame_codec.md R772). -/
inductive DecEvent where
  | delimiter
  | data (payload : List Byte)
  | final
deriving DecidableEq, Repr

/-- A duty of the host outside the hook that the host can break; the treatment is `refuse`
(93_implementation_defined.md rows 11, 12, 18, 19, 21; 70_reset_and_hazards.md R1015). -/
inductive HostBreach where
  /-- Two threads of control drive one VM or codec unit. -/
  | concurrentUse
  /-- The host writes data memory while `exec` runs, not through the hook. -/
  | writesDataDuringExec
  /-- The host writes the program buffer (60_exceptions.md R925). -/
  | writesProgram
  /-- The host writes `ip`, `sp`, `err` or a stack cell other than by `error_ack` and `reset`. -/
  | writesRegister
  /-- A codec callback calls back into its own unit (48_frame_codec.md R777). -/
  | callbackReenters
  /-- The byte source declares that it lost, repeated or altered a byte (R1017). -/
  | streamNotReliable
  /-- The frame sink cannot accept a frame (D26). -/
  | sinkFails
  /-- A buffer is released or resized during the VM's lifetime (R1005). -/
  | bufferReleased
deriving DecidableEq, Repr

/-- One call the host makes when it has control: the host interface of 60_exceptions.md R925 and the
codec commands of 48_frame_codec.md. -/
inductive HostCall where
  /-- `exec(count)` (R910). -/
  | exec (count : Word)
  /-- `error_ack()` (R912). -/
  | errorAck
  /-- `reset()` (R913). -/
  | reset
  /-- Reads a register, a stack cell or a data byte (R925): the value is returned, nothing else changes. -/
  | inspect (what : Inspected)
  /-- Writes one data byte between `exec` calls (20_memory.md R222). -/
  | writeData (a : Nat) (b : Byte)
  /-- `enc_init(frame_write)`; the argument says whether the callback is given (R751). -/
  | encInit (sink : Bool)
  /-- `append_u8(b)` (R753). -/
  | appendU8 (b : Byte)
  /-- `append_buf(bytes)` (R754). -/
  | appendBuf (bytes : List Byte)
  /-- `set_final(f)` (R755). -/
  | setFinal (f : Bool)
  /-- `set_delimited(d)` (R755). -/
  | setDelimited (d : Bool)
  /-- `write()` (R756). -/
  | write
  /-- `write_zero()` (R757). -/
  | writeZero
  /-- `dec_init(read, on_delimiter, on_data, on_final)`; each argument says whether the callback is
  given (R770). -/
  | decInit (read onDelimiter onData onFinal : Bool)
  /-- `read_frame_step()` (R771); `got` is what the one call of `read` delivers (R774, log 9). -/
  | readFrameStep (got : List Byte)
  /-- A broken duty: the model refuses it. -/
  | breach (b : HostBreach)
deriving DecidableEq, Repr

/-- Why a step stops with a fault of the MODEL. The machine's own faults (60_exceptions.md R900) are no
member: taking one is a next state with `err` latched. -/
inductive Fault where
  /-- Raised by `runHook` when the hook never returns: the agent makes no further step
  (93_implementation_defined.md row 10, 47_system.md R710). Safe: the hardware stays inside the
  `syscall` for ever. Log 10. -/
  | hookNeverReturns
deriving DecidableEq, Repr

/-- Why the model gives a situation no meaning. -/
inductive Refusal where
  /-- Raised by `exec`'s arm of an instruction that has no meaning yet (none is left). Safe. -/
  | notModelled (mnemonic : String)
  /-- Raised by `runHook` when the hook breaks a duty (47_system.md R710: a model refuses it). Safe. -/
  | hookBreaksDuty (b : HookBreach)
  /-- Raised by `runHook` on `HRaise(Success)` (47_system.md R710). Safe. -/
  | hookRaisesSuccess
  /-- Raised by `hostCall` on a broken host duty (70_reset_and_hazards.md R1015). Safe. -/
  | hostBreaksDuty (b : HostBreach)
  /-- Raised by `hostWriteData` when the host writes a data address that names no byte (20_memory.md
  R201). Safe. Log 14. -/
  | hostWritesOutsideData
  /-- Raised by `hostInspect` when the host reads a data address that names no byte (20_memory.md R201).
  Safe. Log 14. -/
  | hostReadsOutsideData
  /-- Raised by `hostInspect` when the host reads a stack index that names no cell (10_state.md R102).
  Safe. Log 14. -/
  | hostReadsNoCell
  /-- Raised by `hostCall` on a command to an encoder that is not initialised (70_reset_and_hazards.md
  R1006: refused by a model). Safe. -/
  | encoderNotInitialised
  /-- Raised by `hostCall` on a step of a decoder that is not initialised (R1006). Safe. -/
  | decoderNotInitialised
  /-- Raised by `readFrameStep` when the read reports more bytes than it was asked for
  (48_frame_codec.md R774: a model refuses it). Safe. -/
  | readReportsTooMuch
deriving DecidableEq, Repr

/-- The machine. The first nine fields are the spec's; `budget` is the transient state of an `exec`
call (10_state.md R112); the rest is the host's side, the model's own (logs 1, 5, 8). -/
structure State where
  /-- Program counter (10_state.md R100). -/
  ip : Word
  /-- Free-slot index (10_state.md R101). -/
  sp : Nat
  /-- Operand stack; its length is STACK_CAP (10_state.md R102). -/
  stack : List Word
  /-- Error latch (10_state.md R103). -/
  err : ErrCode
  /-- Program binding: PROG_LEN and the bytes (10_state.md R104). -/
  program : Buffer
  /-- Data binding: DATA_LEN and the bytes (10_state.md R105). -/
  data : Buffer
  /-- Syscall hook binding: none, or the identity of a host function (10_state.md R106). -/
  hook : Option Nat
  /-- Frame encoder (10_state.md R120). -/
  enc : Encoder
  /-- Frame decoder (10_state.md R121). -/
  dec : Decoder
  /-- Instructions the `exec` call in progress may still run; 0 when the host has control. -/
  budget : Nat
  /-- Host calls still to be made, first one first (log 5). -/
  calls : List HostCall
  /-- What the next hook calls do, first one first (log 1). -/
  hookRuns : List (List HookAct)
  /-- How many hook calls were made; feeds `Config.hookRun` (log 1). -/
  hookCount : Nat
  /-- What the last finished host call returned (log 8). -/
  ret : HostReturn
  /-- Frames passed to the frame sink, oldest first (48_frame_codec.md R758, log 8). -/
  frames : List (List Byte)
  /-- Callbacks the decoder made, oldest first (48_frame_codec.md R772, log 8). -/
  events : List DecEvent
deriving DecidableEq, Repr

/-- `ip <- v`. -/
def State.setIp (s : State) (v : Word) : State := { s with ip := v }

/-- `sp <- n`. -/
def State.setSp (s : State) (n : Nat) : State := { s with sp := n }

/-- `stack[i] <- v`. -/
def State.setCell (s : State) (i : Nat) (v : Word) : State := { s with stack := s.stack.set i v }

/-- `err <- c`. -/
def State.setErr (s : State) (c : ErrCode) : State := { s with err := c }

/-- Replaces the data binding's contents. -/
def State.setData (s : State) (d : Buffer) : State := { s with data := d }

/-- Replaces the encoder. -/
def State.setEnc (s : State) (e : Encoder) : State := { s with enc := e }

/-- Replaces the decoder. -/
def State.setDec (s : State) (d : Decoder) : State := { s with dec := d }

/-- Sets the budget of the `exec` call in progress. -/
def State.setBudget (s : State) (n : Nat) : State := { s with budget := n }

/-- Sets the host calls still to be made. -/
def State.setCalls (s : State) (cs : List HostCall) : State := { s with calls := cs }

/-- Sets the hook runs still to come and counts one hook call. -/
def State.setHookRuns (s : State) (rs : List (List HookAct)) : State :=
  { s with hookRuns := rs, hookCount := s.hookCount + 1 }

/-- Sets what the last host call returned. -/
def State.setRet (s : State) (r : HostReturn) : State := { s with ret := r }

/-- The frame sink accepts one frame. -/
def State.addFrame (s : State) (f : List Byte) : State := { s with frames := s.frames ++ [f] }

/-- The decoder makes callbacks, in this order. -/
def State.addEvents (s : State) (es : List DecEvent) : State := { s with events := s.events ++ es }

/-- An encoder before `enc_init` (10_state.md R125, 70_reset_and_hazards.md R1006); the payload bytes
are unspecified (DESIGN CHOICE 0, log 4). -/
def Encoder.fresh : Encoder :=
  { bound := false, payload := List.replicate frameMaxPayload 0, count := 0, final := false,
    delim := false }

/-- A decoder before `dec_init` (10_state.md R125, 70_reset_and_hazards.md R1006); the buffer bytes are
unspecified (DESIGN CHOICE 0, log 4). -/
def Decoder.fresh : Decoder :=
  { bound := false, buf := List.replicate frameMax 0, idx := 0 }

/-- The state after VM construction with the given parameters (10_state.md R125, column 1), both codec
units not yet initialised and the host not yet having called anything. -/
def State.construct (p : Params) : State :=
  { ip := 0, sp := p.stackCap, stack := List.replicate p.stackCap 0, err := .success,
    program := p.program, data := p.data, hook := p.hook, enc := Encoder.fresh,
    dec := Decoder.fresh, budget := 0, calls := [], hookRuns := [], hookCount := 0, ret := .nothing,
    frames := [], events := [] }

/-- The machine right after construction (10_state.md R125, column 1; the operation `reset()` of a
running machine is `resetVm`), with the parameters of `Params.conventions` (DESIGN CHOICE, log 2). -/
def State.reset : State := State.construct Params.conventions

end Sys2Proof.Machine
end

