-- ==== Sys2Proof/Machine/Ops.lean ====
section
/-! DEFINITION. The named operations of the machine: taking a fault and returning from it, the stack
engine (41_stack.md), the byte buffers and the bounds-checked memory primitives (20_memory.md), the
fetch (30_encoding.md R315), the host's `reset`. -/

namespace Sys2Proof.Machine

open Sys2Proof

/-! ## Taking a fault and returning from it -/

/-- The 8-bit value of an error code (60_exceptions.md R900). -/
def errValue : ErrCode → Byte
  | .success => 0
  | .halted => 1
  | .badOpcode => 2
  | .stackEmpty => 3
  | .stackFull => 4
  | .dataAddressOutOfBounds => 5
  | .programAddressOutOfBounds => 6
  | .badSyscall => 7
  | .callArgOutOfRange => 8

/-- The value of a codec result code (48_frame_codec.md R750). -/
def codecValue : CodecResult → Byte
  | .ok => 0
  | .zeroLength => 1
  | .noData => 2
  | .nullArgument => 3

/-- `raise F` (60_exceptions.md R903, R904): `err` latches the code, every earlier write stays, and
nothing else is saved (R901). That the instruction ends here is `Res.raised`; that `exec` then returns
is `closeInstruction`. -/
def raise (c : ErrCode) (s : State) : State := s.setErr c

/-- `error_ack()` (60_exceptions.md R912): the return from a fault; only `err` changes. -/
def errorAck (s : State) : State := s.setErr .success

/-- `reset()` (60_exceptions.md R913): `ip`, `sp`, every stack cell and `err`; bindings, data memory
and the codec stay (70_reset_and_hazards.md R1003). -/
def resetVm (s : State) : State :=
  { s with ip := 0, sp := s.stack.length, stack := List.replicate s.stack.length 0,
           err := .success }

/-- The answer of an operation inside an instruction: a value and the state so far, or the state in
which a fault was raised, which aborts the instruction (60_exceptions.md R903). -/
inductive Res (α : Type) where
  | ok (a : α) (s : State)
  | raised (s : State)
deriving DecidableEq, Repr

/-- Runs the next operation unless a fault was raised. -/
def Res.andThen {α β : Type} (r : Res α) (k : α → State → Res β) : Res β :=
  match r with
  | .ok a s => k a s
  | .raised s => .raised s

/-- The outcome of a whole instruction: whether or not it raised a fault, the machine is in a next
state (60_exceptions.md R903). -/
def Res.outcome (r : Res Unit) : Host.Outcome State Fault Refusal :=
  match r with
  | .ok _ s => .next s
  | .raised s => .next s

/-! ## The stack engine -/

/-- `Push(v)` (41_stack.md R400). -/
def push (v : Word) (s : State) : Res Unit :=
  if s.sp = 0 then .raised (raise .stackFull s)
  else .ok () ((s.setSp (s.sp - 1)).setCell (s.sp - 1) v)

/-- `Pop()` (41_stack.md R401): the popped cell keeps its value. There is no cell at `sp` exactly when
`sp == STACK_CAP` (10_state.md R101; a larger `sp` never occurs and is treated alike, log 13). -/
def pop (s : State) : Res Word :=
  match s.stack[s.sp]? with
  | none => .raised (raise .stackEmpty s)
  | some v => .ok v (s.setSp (s.sp + 1))

/-! ## Byte buffers -/

/-- The byte the cells hold at an address; an unlisted address reads as 0 (log 3). -/
def cellsGet : List Host.Cell → Nat → Byte
  | [], _ => 0
  | (k, v) :: rest, a => if k = a then v else cellsGet rest a

/-- Writes one byte, keeping addresses strictly rising and listing no 0. -/
def cellsSet : List Host.Cell → Nat → Byte → List Host.Cell
  | [], a, v => if v = 0 then [] else [(a, v)]
  | (k, w) :: rest, a, v =>
    if a < k then (if v = 0 then (k, w) :: rest else (a, v) :: (k, w) :: rest)
    else if a = k then (if v = 0 then rest else (a, v) :: rest)
    else (k, w) :: cellsSet rest a v

/-- The byte of a buffer at an address. -/
def Buffer.get (b : Buffer) (a : Nat) : Byte := cellsGet b.cells a

/-- Writes the byte of a buffer at an address; an address at or beyond the length names no byte, and
nothing is written there. -/
def Buffer.set (b : Buffer) (a : Nat) (v : Byte) : Buffer :=
  if a < b.len then { b with cells := cellsSet b.cells a v } else b

/-- The `n` bytes of a buffer from an address on, lowest address first. -/
def bytesAt (b : Buffer) (a : Nat) : Nat → List Byte
  | 0 => []
  | n + 1 => Buffer.get b a :: bytesAt b (a + 1) n

/-- Writes bytes from an address on, lowest address first. -/
def writeBytes (b : Buffer) (a : Nat) : List Byte → Buffer
  | [] => b
  | v :: rest => writeBytes (Buffer.set b a v) (a + 1) rest

/-- `InBounds(a, n, L)` (20_memory.md R205), on unbounded integers. -/
abbrev InBounds (a : Word) (n L : Nat) : Prop := a.toNat + n ≤ L

/-- The number of bytes of an access (20_memory.md R212). -/
def widthBytes : Width → Nat
  | .byte => 1
  | .half => 2
  | .word => 4

/-- `MemRead(a, n)` (20_memory.md R207). -/
def memRead (a : Word) (w : Width) (s : State) : Res Word :=
  if InBounds a (widthBytes w) s.data.len then
    .ok (leWord (bytesAt s.data a.toNat (widthBytes w))) s
  else .raised (raise .dataAddressOutOfBounds s)

/-- `MemWrite(a, n, v)` (20_memory.md R208): the check comes before any byte is written. -/
def memWrite (a : Word) (w : Width) (v : Word) (s : State) : Res Unit :=
  if InBounds a (widthBytes w) s.data.len then
    .ok () (s.setData (writeBytes s.data a.toNat (wordBytes (widthBytes w) v)))
  else .raised (raise .dataAddressOutOfBounds s)

/-- Copies `n` bytes from a source buffer into a destination buffer, ascending (45_block_copy.md
R601). -/
def copyFrom (src : Buffer) (dst : Buffer) (d s : Nat) : Nat → Buffer
  | 0 => dst
  | n + 1 => copyFrom src (Buffer.set dst d (Buffer.get src s)) (d + 1) (s + 1) n

/-- Copies `n` bytes within one buffer, ascending, each iteration reading the current contents
(45_block_copy.md R600, R602). -/
def copyWithin (b : Buffer) (d s : Nat) : Nat → Buffer
  | 0 => b
  | n + 1 => copyWithin (Buffer.set b d (Buffer.get b s)) (d + 1) (s + 1) n

/-! ## Fetch -/

/-- Fetch (30_encoding.md R315): the opcode byte at `ip` and the immediate bytes its class asks for,
each checked against PROG_LEN; nothing where `ProgramAddressOutOfBounds` is raised. -/
def fetch (s : State) : Option (List Byte) :=
  if InBounds s.ip 1 s.program.len then
    let opc := Buffer.get s.program s.ip.toNat
    if s.ip.toNat + 1 + immLength opc ≤ s.program.len then
      some (opc :: bytesAt s.program (s.ip.toNat + 1) (immLength opc))
    else none
  else none

/-- Commit of `ip` (30_encoding.md R315, R316): `next_ip` is the address after the fetched bytes. -/
def commit (bytes : List Byte) (s : State) : State :=
  s.setIp (BitVec.ofNat 32 (s.ip.toNat + bytes.length))

/-- Places an instruction where the next step fetches: `bytes` from `ip` on in a program buffer long
enough for them, `err` and the budget such that an `exec` call is running. It stands for a host that
constructs the VM with such a program and calls `exec` (log 6). -/
def placeInstruction (bytes : List Byte) (s : State) : State :=
  let room : Buffer := { s.program with len := max s.program.len (s.ip.toNat + bytes.length) }
  { s with program := writeBytes room s.ip.toNat bytes, err := .success,
           budget := max 1 s.budget }

end Sys2Proof.Machine
end

