-- ==== Sys2Proof/Machine/Operands.lean ====
section
/-! DEFINITION. The operand forms: a popped operand or an extended immediate (30_encoding.md R307,
R310), and the templates that take their operands in the spec's order: binary (42_alu.md R450),
unary (R460), load (44_load_store.md R550), store (R556), block copy (45_block_copy.md R600, R601),
transfer (46_control_flow.md). -/

namespace Sys2Proof.Machine

open Sys2Proof

/-- The designated operand of an instruction (30_encoding.md R310): popped in form S, the extended
immediate in the other forms. -/
inductive Operand where
  | popped
  | imm (v : Word)
deriving DecidableEq, Repr

/-- `(form == S) ? Pop() : imm` (30_encoding.md R312). -/
def Operand.take (o : Operand) (s : State) : Res Word :=
  match o with
  | .popped => pop s
  | .imm v => .ok v s

/-- The zero-extended raw immediate (30_encoding.md R307). -/
def zeroImm {n : Nat} (raw : BitVec n) : Operand := .imm (raw.setWidth 32)

/-- The sign-extended raw immediate of an operation in `SIGNED_IMM` (30_encoding.md R307). -/
def signImm {n : Nat} (raw : BitVec n) : Operand := .imm (raw.signExtend 32)

/-- The binary template (42_alu.md R450, 43_compare.md R500): `y` is the designated operand, `x` is
popped, `f x y` is pushed. -/
def binary (o : Operand) (f : Word → Word → Word) (s : State) :
    Host.Outcome State Fault Refusal :=
  ((o.take s).andThen fun y s1 => (pop s1).andThen fun x s2 => push (f x y) s2).outcome

/-- The unary template (42_alu.md R460). -/
def unary (o : Operand) (g : Word → Word) (s : State) : Host.Outcome State Fault Refusal :=
  ((o.take s).andThen fun x s1 => push (g x) s1).outcome

/-- The load template (44_load_store.md R550). -/
def load (o : Operand) (w : Width) (ext : Word → Word) (s : State) :
    Host.Outcome State Fault Refusal :=
  ((o.take s).andThen fun a s1 => (memRead a w s1).andThen fun v s2 => push (ext v) s2).outcome

/-- The store template (44_load_store.md R556), with the push-back. -/
def store (o : Operand) (w : Width) (s : State) : Host.Outcome State Fault Refusal :=
  ((o.take s).andThen fun a s1 => (pop s1).andThen fun v s2 =>
    (memWrite a w v s2).andThen fun _ s3 => push v s3).outcome

/-- The store template (44_load_store.md R556), discarding the value. -/
def storeDiscard (o : Operand) (w : Width) (s : State) : Host.Outcome State Fault Refusal :=
  ((o.take s).andThen fun a s1 => (pop s1).andThen fun v s2 => memWrite a w v s2).outcome

/-- `dcopy` (45_block_copy.md R600): pops `len`, `src`, `dst`; checks the source, then the destination;
copies forward. -/
def dataCopy (o : Operand) (s : State) : Host.Outcome State Fault Refusal :=
  ((o.take s).andThen fun len s1 => (pop s1).andThen fun src s2 => (pop s2).andThen fun dst s3 =>
    if ¬ InBounds src len.toNat s3.data.len then .raised (raise .dataAddressOutOfBounds s3)
    else if ¬ InBounds dst len.toNat s3.data.len then .raised (raise .dataAddressOutOfBounds s3)
    else .ok () (s3.setData (copyWithin s3.data dst.toNat src.toNat len.toNat))).outcome

/-- `pcopy` (45_block_copy.md R601): as `dcopy` with the source in program memory. -/
def programCopy (o : Operand) (s : State) : Host.Outcome State Fault Refusal :=
  ((o.take s).andThen fun len s1 => (pop s1).andThen fun src s2 => (pop s2).andThen fun dst s3 =>
    if ¬ InBounds src len.toNat s3.program.len then .raised (raise .programAddressOutOfBounds s3)
    else if ¬ InBounds dst len.toNat s3.data.len then .raised (raise .dataAddressOutOfBounds s3)
    else .ok () (s3.setData (copyFrom s3.program s3.data dst.toNat src.toNat len.toNat))).outcome

/-- `call` (46_control_flow.md R651): pushes `ip`, which already is the next instruction's address
(R650), and jumps. -/
def callTo (o : Operand) (s : State) : Host.Outcome State Fault Refusal :=
  ((o.take s).andThen fun target s1 => (push s1.ip s1).andThen fun _ s2 =>
    .ok () (s2.setIp target)).outcome

/-- `jump-abs` (46_control_flow.md R652). -/
def jumpTo (o : Operand) (s : State) : Host.Outcome State Fault Refusal :=
  ((o.take s).andThen fun target s1 => .ok () (s1.setIp target)).outcome

/-- The conditional absolute jumps (46_control_flow.md R653, R654): both operands are popped whether or
not the jump is taken. -/
def jumpToWhen (o : Operand) (test : Word → Bool) (s : State) : Host.Outcome State Fault Refusal :=
  ((pop s).andThen fun cond s1 => (o.take s1).andThen fun addr s2 =>
    .ok () (if test cond then s2.setIp addr else s2)).outcome

/-- `jump-rel` (46_control_flow.md R655): the target is computed and the pre-jump `ip` pushed before the
jump. -/
def jumpBy (o : Operand) (s : State) : Host.Outcome State Fault Refusal :=
  ((o.take s).andThen fun delta s1 => (push s1.ip s1).andThen fun _ s2 =>
    .ok () (s2.setIp (s1.ip + delta))).outcome

/-- The conditional relative jumps (46_control_flow.md R656, R657): nothing is pushed. -/
def jumpByWhen (o : Operand) (test : Word → Bool) (s : State) : Host.Outcome State Fault Refusal :=
  ((pop s).andThen fun cond s1 => (o.take s1).andThen fun delta s2 =>
    .ok () (if test cond then s2.setIp (s2.ip + delta) else s2)).outcome

end Sys2Proof.Machine
end

