-- ==== Sys2Proof/Machine/Alu.lean ====
section
/-! DEFINITION. Arithmetic, bitwise, shift and unary instructions (42_alu.md R448-R463). -/

namespace Sys2Proof.Machine

open Sys2Proof

/-- `f_add` (42_alu.md R451): modulo 2^32. -/
def fAdd (x y : Word) : Word := x + y

/-- `f_sub` (42_alu.md R452): `x` is the minuend. -/
def fSub (x y : Word) : Word := x - y

/-- `f_mul` (42_alu.md R453): the low 32 bits of the product. -/
def fMul (x y : Word) : Word := x * y

/-- `f_and` (42_alu.md R454). -/
def fAnd (x y : Word) : Word := x &&& y

/-- `f_or` (42_alu.md R455). -/
def fOr (x y : Word) : Word := x ||| y

/-- `f_xor` (42_alu.md R456). -/
def fXor (x y : Word) : Word := x ^^^ y

/-- `f_shl` (42_alu.md R457): the whole word `y` is the amount; 32 and more give 0. -/
def fShl (x y : Word) : Word := if 32 ≤ y.toNat then 0 else x <<< y.toNat

/-- `f_shr_ui` (42_alu.md R458). -/
def fShrU (x y : Word) : Word := if 32 ≤ y.toNat then 0 else x >>> y.toNat

/-- `f_shr_si` (42_alu.md R459): floor division; amounts of 32 and more give the sign fill. -/
def fShrS (x y : Word) : Word :=
  if 32 ≤ y.toNat then (if x.toInt < 0 then 0xFFFFFFFF else 0) else x.sshiftRight y.toNat

/-- `g_not` (42_alu.md R461). -/
def gNot (x : Word) : Word := ~~~x

/-- `g_neg` (42_alu.md R462). -/
def gNeg (x : Word) : Word := -x

/-- `g_lnot` (42_alu.md R463). -/
def gLnot (x : Word) : Word := if x = 0 then 1 else 0

/-- `add` (42_alu.md R451). -/
def execAdd (s : State) : Host.Outcome State Fault Refusal :=
  binary .popped fAdd s

/-- `sub` (42_alu.md R452). -/
def execSub (s : State) : Host.Outcome State Fault Refusal :=
  binary .popped fSub s

/-- `mul` (42_alu.md R453). -/
def execMul (s : State) : Host.Outcome State Fault Refusal :=
  binary .popped fMul s

/-- `and` (42_alu.md R454). -/
def execAnd (s : State) : Host.Outcome State Fault Refusal :=
  binary .popped fAnd s

/-- `or` (42_alu.md R455). -/
def execOr (s : State) : Host.Outcome State Fault Refusal :=
  binary .popped fOr s

/-- `xor` (42_alu.md R456). -/
def execXor (s : State) : Host.Outcome State Fault Refusal :=
  binary .popped fXor s

/-- `shl` (42_alu.md R457). -/
def execShl (s : State) : Host.Outcome State Fault Refusal :=
  binary .popped fShl s

/-- `shr-ui` (42_alu.md R458). -/
def execShrUi (s : State) : Host.Outcome State Fault Refusal :=
  binary .popped fShrU s

/-- `shr-si` (42_alu.md R459). -/
def execShrSi (s : State) : Host.Outcome State Fault Refusal :=
  binary .popped fShrS s

/-- `not` (42_alu.md R461). -/
def execNot (s : State) : Host.Outcome State Fault Refusal :=
  unary .popped gNot s

/-- `neg` (42_alu.md R462). -/
def execNeg (s : State) : Host.Outcome State Fault Refusal :=
  unary .popped gNeg s

/-- `lnot` (42_alu.md R463). -/
def execLnot (s : State) : Host.Outcome State Fault Refusal :=
  unary .popped gLnot s

/-- `add-imm8` (42_alu.md R451). -/
def execAddImm8 (raw : BitVec 8) (s : State) : Host.Outcome State Fault Refusal :=
  binary (zeroImm raw) fAdd s

/-- `sub-imm8` (42_alu.md R452). -/
def execSubImm8 (raw : BitVec 8) (s : State) : Host.Outcome State Fault Refusal :=
  binary (zeroImm raw) fSub s

/-- `mul-imm8` (42_alu.md R453). -/
def execMulImm8 (raw : BitVec 8) (s : State) : Host.Outcome State Fault Refusal :=
  binary (zeroImm raw) fMul s

/-- `and-imm8` (42_alu.md R454). -/
def execAndImm8 (raw : BitVec 8) (s : State) : Host.Outcome State Fault Refusal :=
  binary (zeroImm raw) fAnd s

/-- `or-imm8` (42_alu.md R455). -/
def execOrImm8 (raw : BitVec 8) (s : State) : Host.Outcome State Fault Refusal :=
  binary (zeroImm raw) fOr s

/-- `xor-imm8` (42_alu.md R456). -/
def execXorImm8 (raw : BitVec 8) (s : State) : Host.Outcome State Fault Refusal :=
  binary (zeroImm raw) fXor s

/-- `shl-imm8` (42_alu.md R457). -/
def execShlImm8 (raw : BitVec 8) (s : State) : Host.Outcome State Fault Refusal :=
  binary (zeroImm raw) fShl s

/-- `shr-ui-imm8` (42_alu.md R458). -/
def execShrUiImm8 (raw : BitVec 8) (s : State) : Host.Outcome State Fault Refusal :=
  binary (zeroImm raw) fShrU s

/-- `shr-si-imm8` (42_alu.md R459). -/
def execShrSiImm8 (raw : BitVec 8) (s : State) : Host.Outcome State Fault Refusal :=
  binary (zeroImm raw) fShrS s

/-- `not-imm8` (42_alu.md R461). -/
def execNotImm8 (raw : BitVec 8) (s : State) : Host.Outcome State Fault Refusal :=
  unary (zeroImm raw) gNot s

/-- `neg-imm8` (42_alu.md R462). -/
def execNegImm8 (raw : BitVec 8) (s : State) : Host.Outcome State Fault Refusal :=
  unary (zeroImm raw) gNeg s

/-- `lnot-imm8` (42_alu.md R463). -/
def execLnotImm8 (raw : BitVec 8) (s : State) : Host.Outcome State Fault Refusal :=
  unary (zeroImm raw) gLnot s

/-- `add-imm16` (42_alu.md R451). -/
def execAddImm16 (raw : BitVec 16) (s : State) : Host.Outcome State Fault Refusal :=
  binary (zeroImm raw) fAdd s

/-- `sub-imm16` (42_alu.md R452). -/
def execSubImm16 (raw : BitVec 16) (s : State) : Host.Outcome State Fault Refusal :=
  binary (zeroImm raw) fSub s

/-- `mul-imm16` (42_alu.md R453). -/
def execMulImm16 (raw : BitVec 16) (s : State) : Host.Outcome State Fault Refusal :=
  binary (zeroImm raw) fMul s

/-- `and-imm16` (42_alu.md R454). -/
def execAndImm16 (raw : BitVec 16) (s : State) : Host.Outcome State Fault Refusal :=
  binary (zeroImm raw) fAnd s

/-- `or-imm16` (42_alu.md R455). -/
def execOrImm16 (raw : BitVec 16) (s : State) : Host.Outcome State Fault Refusal :=
  binary (zeroImm raw) fOr s

/-- `xor-imm16` (42_alu.md R456). -/
def execXorImm16 (raw : BitVec 16) (s : State) : Host.Outcome State Fault Refusal :=
  binary (zeroImm raw) fXor s

/-- `shl-imm16` (42_alu.md R457). -/
def execShlImm16 (raw : BitVec 16) (s : State) : Host.Outcome State Fault Refusal :=
  binary (zeroImm raw) fShl s

/-- `shr-ui-imm16` (42_alu.md R458). -/
def execShrUiImm16 (raw : BitVec 16) (s : State) : Host.Outcome State Fault Refusal :=
  binary (zeroImm raw) fShrU s

/-- `shr-si-imm16` (42_alu.md R459). -/
def execShrSiImm16 (raw : BitVec 16) (s : State) : Host.Outcome State Fault Refusal :=
  binary (zeroImm raw) fShrS s

/-- `not-imm16` (42_alu.md R461). -/
def execNotImm16 (raw : BitVec 16) (s : State) : Host.Outcome State Fault Refusal :=
  unary (zeroImm raw) gNot s

/-- `neg-imm16` (42_alu.md R462). -/
def execNegImm16 (raw : BitVec 16) (s : State) : Host.Outcome State Fault Refusal :=
  unary (zeroImm raw) gNeg s

/-- `lnot-imm16` (42_alu.md R463). -/
def execLnotImm16 (raw : BitVec 16) (s : State) : Host.Outcome State Fault Refusal :=
  unary (zeroImm raw) gLnot s

/-- `add-imm32` (42_alu.md R451). -/
def execAddImm32 (raw : BitVec 32) (s : State) : Host.Outcome State Fault Refusal :=
  binary (zeroImm raw) fAdd s

/-- `sub-imm32` (42_alu.md R452). -/
def execSubImm32 (raw : BitVec 32) (s : State) : Host.Outcome State Fault Refusal :=
  binary (zeroImm raw) fSub s

/-- `mul-imm32` (42_alu.md R453). -/
def execMulImm32 (raw : BitVec 32) (s : State) : Host.Outcome State Fault Refusal :=
  binary (zeroImm raw) fMul s

/-- `and-imm32` (42_alu.md R454). -/
def execAndImm32 (raw : BitVec 32) (s : State) : Host.Outcome State Fault Refusal :=
  binary (zeroImm raw) fAnd s

/-- `or-imm32` (42_alu.md R455). -/
def execOrImm32 (raw : BitVec 32) (s : State) : Host.Outcome State Fault Refusal :=
  binary (zeroImm raw) fOr s

/-- `xor-imm32` (42_alu.md R456). -/
def execXorImm32 (raw : BitVec 32) (s : State) : Host.Outcome State Fault Refusal :=
  binary (zeroImm raw) fXor s

/-- `shl-imm32` (42_alu.md R457). -/
def execShlImm32 (raw : BitVec 32) (s : State) : Host.Outcome State Fault Refusal :=
  binary (zeroImm raw) fShl s

/-- `shr-ui-imm32` (42_alu.md R458). -/
def execShrUiImm32 (raw : BitVec 32) (s : State) : Host.Outcome State Fault Refusal :=
  binary (zeroImm raw) fShrU s

/-- `shr-si-imm32` (42_alu.md R459). -/
def execShrSiImm32 (raw : BitVec 32) (s : State) : Host.Outcome State Fault Refusal :=
  binary (zeroImm raw) fShrS s

/-- `not-imm32` (42_alu.md R461). -/
def execNotImm32 (raw : BitVec 32) (s : State) : Host.Outcome State Fault Refusal :=
  unary (zeroImm raw) gNot s

/-- `neg-imm32` (42_alu.md R462). -/
def execNegImm32 (raw : BitVec 32) (s : State) : Host.Outcome State Fault Refusal :=
  unary (zeroImm raw) gNeg s

/-- `lnot-imm32` (42_alu.md R463). -/
def execLnotImm32 (raw : BitVec 32) (s : State) : Host.Outcome State Fault Refusal :=
  unary (zeroImm raw) gLnot s

end Sys2Proof.Machine
end

