-- ==== Sys2Proof/Machine/BlockCopy.lean ====
section
/-! DEFINITION. The block copies (45_block_copy.md R600-R604). -/

namespace Sys2Proof.Machine

open Sys2Proof

/-- `dcopy` (45_block_copy.md R600). -/
def execDcopy (s : State) : Host.Outcome State Fault Refusal :=
  dataCopy .popped s

/-- `pcopy` (45_block_copy.md R601). -/
def execPcopy (s : State) : Host.Outcome State Fault Refusal :=
  programCopy .popped s

/-- `dcopy-imm8` (45_block_copy.md R600). -/
def execDcopyImm8 (raw : BitVec 8) (s : State) : Host.Outcome State Fault Refusal :=
  dataCopy (zeroImm raw) s

/-- `pcopy-imm8` (45_block_copy.md R601). -/
def execPcopyImm8 (raw : BitVec 8) (s : State) : Host.Outcome State Fault Refusal :=
  programCopy (zeroImm raw) s

/-- `dcopy-imm16` (45_block_copy.md R600). -/
def execDcopyImm16 (raw : BitVec 16) (s : State) : Host.Outcome State Fault Refusal :=
  dataCopy (zeroImm raw) s

/-- `pcopy-imm16` (45_block_copy.md R601). -/
def execPcopyImm16 (raw : BitVec 16) (s : State) : Host.Outcome State Fault Refusal :=
  programCopy (zeroImm raw) s

/-- `dcopy-imm32` (45_block_copy.md R600). -/
def execDcopyImm32 (raw : BitVec 32) (s : State) : Host.Outcome State Fault Refusal :=
  dataCopy (zeroImm raw) s

/-- `pcopy-imm32` (45_block_copy.md R601). -/
def execPcopyImm32 (raw : BitVec 32) (s : State) : Host.Outcome State Fault Refusal :=
  programCopy (zeroImm raw) s

end Sys2Proof.Machine
end

