-- ==== Sys2Proof/Machine/Flags.lean ====
section
/-! DEFINITION. There are no flags (10_state.md R109). What takes their place: the result word of a
comparison (43_compare.md R500), the relations it computes, and the test a conditional jump makes of a
popped word. -/

namespace Sys2Proof.Machine

open Sys2Proof

/-- The result word of a comparison: 1 when the relation holds, 0 when it does not (43_compare.md
R500). -/
def truthWord (b : Bool) : Word := if b then 1 else 0

/-- `eq` (43_compare.md R501). -/
def relEq (x y : Word) : Word := truthWord (x == y)

/-- `ne` (43_compare.md R502). -/
def relNe (x y : Word) : Word := truthWord (x != y)

/-- `lt-ui` (43_compare.md R503). -/
def relLtU (x y : Word) : Word := truthWord (x.ult y)

/-- `le-ui` (43_compare.md R504). -/
def relLeU (x y : Word) : Word := truthWord (x.ule y)

/-- `gt-ui` (43_compare.md R505). -/
def relGtU (x y : Word) : Word := truthWord (y.ult x)

/-- `ge-ui` (43_compare.md R506). -/
def relGeU (x y : Word) : Word := truthWord (y.ule x)

/-- `lt-si` (43_compare.md R507). -/
def relLtS (x y : Word) : Word := truthWord (x.slt y)

/-- `le-si` (43_compare.md R508). -/
def relLeS (x y : Word) : Word := truthWord (x.sle y)

/-- `gt-si` (43_compare.md R509). -/
def relGtS (x y : Word) : Word := truthWord (y.slt x)

/-- `ge-si` (43_compare.md R510). -/
def relGeS (x y : Word) : Word := truthWord (y.sle x)

/-- The condition of `jump-abs-if` and `jump-rel-if`: any nonzero word is true (46_control_flow.md
R653). -/
def isNonzero (c : Word) : Bool := c != 0

/-- The condition of the `-if-not` jumps (46_control_flow.md R654). -/
def isZero (c : Word) : Bool := c == 0

end Sys2Proof.Machine
end

