-- ==== Sys2Proof/Machine/Compare.lean ====
section
/-! DEFINITION. The comparisons (43_compare.md R500-R510). The immediates of lt-si, le-si, gt-si and ge-si are sign-extended. -/

namespace Sys2Proof.Machine

open Sys2Proof

/-- `eq` (43_compare.md R501). -/
def execEq (s : State) : Host.Outcome State Fault Refusal :=
  binary .popped relEq s

/-- `ne` (43_compare.md R502). -/
def execNe (s : State) : Host.Outcome State Fault Refusal :=
  binary .popped relNe s

/-- `lt-ui` (43_compare.md R503). -/
def execLtUi (s : State) : Host.Outcome State Fault Refusal :=
  binary .popped relLtU s

/-- `le-ui` (43_compare.md R504). -/
def execLeUi (s : State) : Host.Outcome State Fault Refusal :=
  binary .popped relLeU s

/-- `gt-ui` (43_compare.md R505). -/
def execGtUi (s : State) : Host.Outcome State Fault Refusal :=
  binary .popped relGtU s

/-- `ge-ui` (43_compare.md R506). -/
def execGeUi (s : State) : Host.Outcome State Fault Refusal :=
  binary .popped relGeU s

/-- `lt-si` (43_compare.md R507). -/
def execLtSi (s : State) : Host.Outcome State Fault Refusal :=
  binary .popped relLtS s

/-- `le-si` (43_compare.md R508). -/
def execLeSi (s : State) : Host.Outcome State Fault Refusal :=
  binary .popped relLeS s

/-- `gt-si` (43_compare.md R509). -/
def execGtSi (s : State) : Host.Outcome State Fault Refusal :=
  binary .popped relGtS s

/-- `ge-si` (43_compare.md R510). -/
def execGeSi (s : State) : Host.Outcome State Fault Refusal :=
  binary .popped relGeS s

/-- `eq-imm8` (43_compare.md R501). -/
def execEqImm8 (raw : BitVec 8) (s : State) : Host.Outcome State Fault Refusal :=
  binary (zeroImm raw) relEq s

/-- `ne-imm8` (43_compare.md R502). -/
def execNeImm8 (raw : BitVec 8) (s : State) : Host.Outcome State Fault Refusal :=
  binary (zeroImm raw) relNe s

/-- `lt-ui-imm8` (43_compare.md R503). -/
def execLtUiImm8 (raw : BitVec 8) (s : State) : Host.Outcome State Fault Refusal :=
  binary (zeroImm raw) relLtU s

/-- `le-ui-imm8` (43_compare.md R504). -/
def execLeUiImm8 (raw : BitVec 8) (s : State) : Host.Outcome State Fault Refusal :=
  binary (zeroImm raw) relLeU s

/-- `gt-ui-imm8` (43_compare.md R505). -/
def execGtUiImm8 (raw : BitVec 8) (s : State) : Host.Outcome State Fault Refusal :=
  binary (zeroImm raw) relGtU s

/-- `ge-ui-imm8` (43_compare.md R506). -/
def execGeUiImm8 (raw : BitVec 8) (s : State) : Host.Outcome State Fault Refusal :=
  binary (zeroImm raw) relGeU s

/-- `lt-si-imm8` (43_compare.md R507). -/
def execLtSiImm8 (raw : BitVec 8) (s : State) : Host.Outcome State Fault Refusal :=
  binary (signImm raw) relLtS s

/-- `le-si-imm8` (43_compare.md R508). -/
def execLeSiImm8 (raw : BitVec 8) (s : State) : Host.Outcome State Fault Refusal :=
  binary (signImm raw) relLeS s

/-- `gt-si-imm8` (43_compare.md R509). -/
def execGtSiImm8 (raw : BitVec 8) (s : State) : Host.Outcome State Fault Refusal :=
  binary (signImm raw) relGtS s

/-- `ge-si-imm8` (43_compare.md R510). -/
def execGeSiImm8 (raw : BitVec 8) (s : State) : Host.Outcome State Fault Refusal :=
  binary (signImm raw) relGeS s

/-- `eq-imm16` (43_compare.md R501). -/
def execEqImm16 (raw : BitVec 16) (s : State) : Host.Outcome State Fault Refusal :=
  binary (zeroImm raw) relEq s

/-- `ne-imm16` (43_compare.md R502). -/
def execNeImm16 (raw : BitVec 16) (s : State) : Host.Outcome State Fault Refusal :=
  binary (zeroImm raw) relNe s

/-- `lt-ui-imm16` (43_compare.md R503). -/
def execLtUiImm16 (raw : BitVec 16) (s : State) : Host.Outcome State Fault Refusal :=
  binary (zeroImm raw) relLtU s

/-- `le-ui-imm16` (43_compare.md R504). -/
def execLeUiImm16 (raw : BitVec 16) (s : State) : Host.Outcome State Fault Refusal :=
  binary (zeroImm raw) relLeU s

/-- `gt-ui-imm16` (43_compare.md R505). -/
def execGtUiImm16 (raw : BitVec 16) (s : State) : Host.Outcome State Fault Refusal :=
  binary (zeroImm raw) relGtU s

/-- `ge-ui-imm16` (43_compare.md R506). -/
def execGeUiImm16 (raw : BitVec 16) (s : State) : Host.Outcome State Fault Refusal :=
  binary (zeroImm raw) relGeU s

/-- `lt-si-imm16` (43_compare.md R507). -/
def execLtSiImm16 (raw : BitVec 16) (s : State) : Host.Outcome State Fault Refusal :=
  binary (signImm raw) relLtS s

/-- `le-si-imm16` (43_compare.md R508). -/
def execLeSiImm16 (raw : BitVec 16) (s : State) : Host.Outcome State Fault Refusal :=
  binary (signImm raw) relLeS s

/-- `gt-si-imm16` (43_compare.md R509). -/
def execGtSiImm16 (raw : BitVec 16) (s : State) : Host.Outcome State Fault Refusal :=
  binary (signImm raw) relGtS s

/-- `ge-si-imm16` (43_compare.md R510). -/
def execGeSiImm16 (raw : BitVec 16) (s : State) : Host.Outcome State Fault Refusal :=
  binary (signImm raw) relGeS s

/-- `eq-imm32` (43_compare.md R501). -/
def execEqImm32 (raw : BitVec 32) (s : State) : Host.Outcome State Fault Refusal :=
  binary (zeroImm raw) relEq s

/-- `ne-imm32` (43_compare.md R502). -/
def execNeImm32 (raw : BitVec 32) (s : State) : Host.Outcome State Fault Refusal :=
  binary (zeroImm raw) relNe s

/-- `lt-ui-imm32` (43_compare.md R503). -/
def execLtUiImm32 (raw : BitVec 32) (s : State) : Host.Outcome State Fault Refusal :=
  binary (zeroImm raw) relLtU s

/-- `le-ui-imm32` (43_compare.md R504). -/
def execLeUiImm32 (raw : BitVec 32) (s : State) : Host.Outcome State Fault Refusal :=
  binary (zeroImm raw) relLeU s

/-- `gt-ui-imm32` (43_compare.md R505). -/
def execGtUiImm32 (raw : BitVec 32) (s : State) : Host.Outcome State Fault Refusal :=
  binary (zeroImm raw) relGtU s

/-- `ge-ui-imm32` (43_compare.md R506). -/
def execGeUiImm32 (raw : BitVec 32) (s : State) : Host.Outcome State Fault Refusal :=
  binary (zeroImm raw) relGeU s

/-- `lt-si-imm32` (43_compare.md R507). -/
def execLtSiImm32 (raw : BitVec 32) (s : State) : Host.Outcome State Fault Refusal :=
  binary (signImm raw) relLtS s

/-- `le-si-imm32` (43_compare.md R508). -/
def execLeSiImm32 (raw : BitVec 32) (s : State) : Host.Outcome State Fault Refusal :=
  binary (signImm raw) relLeS s

/-- `gt-si-imm32` (43_compare.md R509). -/
def execGtSiImm32 (raw : BitVec 32) (s : State) : Host.Outcome State Fault Refusal :=
  binary (signImm raw) relGtS s

/-- `ge-si-imm32` (43_compare.md R510). -/
def execGeSiImm32 (raw : BitVec 32) (s : State) : Host.Outcome State Fault Refusal :=
  binary (signImm raw) relGeS s

end Sys2Proof.Machine
end

