-- ==== Sys2Proof/Machine/Control.lean ====
section
/-! DEFINITION. The control transfers (46_control_flow.md R650-R658). The immediates of the relative jumps are sign-extended. -/

namespace Sys2Proof.Machine

open Sys2Proof

/-- `call` (46_control_flow.md R651). -/
def execCall (s : State) : Host.Outcome State Fault Refusal :=
  callTo .popped s

/-- `jump-abs` (46_control_flow.md R652). -/
def execJumpAbs (s : State) : Host.Outcome State Fault Refusal :=
  jumpTo .popped s

/-- `jump-abs-if` (46_control_flow.md R653). -/
def execJumpAbsIf (s : State) : Host.Outcome State Fault Refusal :=
  jumpToWhen .popped isNonzero s

/-- `jump-abs-if-not` (46_control_flow.md R654). -/
def execJumpAbsIfNot (s : State) : Host.Outcome State Fault Refusal :=
  jumpToWhen .popped isZero s

/-- `jump-rel` (46_control_flow.md R655). -/
def execJumpRel (s : State) : Host.Outcome State Fault Refusal :=
  jumpBy .popped s

/-- `jump-rel-if` (46_control_flow.md R656). -/
def execJumpRelIf (s : State) : Host.Outcome State Fault Refusal :=
  jumpByWhen .popped isNonzero s

/-- `jump-rel-if-not` (46_control_flow.md R657). -/
def execJumpRelIfNot (s : State) : Host.Outcome State Fault Refusal :=
  jumpByWhen .popped isZero s

/-- `call-imm8` (46_control_flow.md R651). -/
def execCallImm8 (raw : BitVec 8) (s : State) : Host.Outcome State Fault Refusal :=
  callTo (zeroImm raw) s

/-- `jump-abs-imm8` (46_control_flow.md R652). -/
def execJumpAbsImm8 (raw : BitVec 8) (s : State) : Host.Outcome State Fault Refusal :=
  jumpTo (zeroImm raw) s

/-- `jump-abs-if-imm8` (46_control_flow.md R653). -/
def execJumpAbsIfImm8 (raw : BitVec 8) (s : State) : Host.Outcome State Fault Refusal :=
  jumpToWhen (zeroImm raw) isNonzero s

/-- `jump-abs-if-not-imm8` (46_control_flow.md R654). -/
def execJumpAbsIfNotImm8 (raw : BitVec 8) (s : State) : Host.Outcome State Fault Refusal :=
  jumpToWhen (zeroImm raw) isZero s

/-- `jump-rel-imm8` (46_control_flow.md R655). -/
def execJumpRelImm8 (raw : BitVec 8) (s : State) : Host.Outcome State Fault Refusal :=
  jumpBy (signImm raw) s

/-- `jump-rel-if-imm8` (46_control_flow.md R656). -/
def execJumpRelIfImm8 (raw : BitVec 8) (s : State) : Host.Outcome State Fault Refusal :=
  jumpByWhen (signImm raw) isNonzero s

/-- `jump-rel-if-not-imm8` (46_control_flow.md R657). -/
def execJumpRelIfNotImm8 (raw : BitVec 8) (s : State) : Host.Outcome State Fault Refusal :=
  jumpByWhen (signImm raw) isZero s

/-- `call-imm16` (46_control_flow.md R651). -/
def execCallImm16 (raw : BitVec 16) (s : State) : Host.Outcome State Fault Refusal :=
  callTo (zeroImm raw) s

/-- `jump-abs-imm16` (46_control_flow.md R652). -/
def execJumpAbsImm16 (raw : BitVec 16) (s : State) : Host.Outcome State Fault Refusal :=
  jumpTo (zeroImm raw) s

/-- `jump-abs-if-imm16` (46_control_flow.md R653). -/
def execJumpAbsIfImm16 (raw : BitVec 16) (s : State) : Host.Outcome State Fault Refusal :=
  jumpToWhen (zeroImm raw) isNonzero s

/-- `jump-abs-if-not-imm16` (46_control_flow.md R654). -/
def execJumpAbsIfNotImm16 (raw : BitVec 16) (s : State) : Host.Outcome State Fault Refusal :=
  jumpToWhen (zeroImm raw) isZero s

/-- `jump-rel-imm16` (46_control_flow.md R655). -/
def execJumpRelImm16 (raw : BitVec 16) (s : State) : Host.Outcome State Fault Refusal :=
  jumpBy (signImm raw) s

/-- `jump-rel-if-imm16` (46_control_flow.md R656). -/
def execJumpRelIfImm16 (raw : BitVec 16) (s : State) : Host.Outcome State Fault Refusal :=
  jumpByWhen (signImm raw) isNonzero s

/-- `jump-rel-if-not-imm16` (46_control_flow.md R657). -/
def execJumpRelIfNotImm16 (raw : BitVec 16) (s : State) : Host.Outcome State Fault Refusal :=
  jumpByWhen (signImm raw) isZero s

/-- `call-imm32` (46_control_flow.md R651). -/
def execCallImm32 (raw : BitVec 32) (s : State) : Host.Outcome State Fault Refusal :=
  callTo (zeroImm raw) s

/-- `jump-abs-imm32` (46_control_flow.md R652). -/
def execJumpAbsImm32 (raw : BitVec 32) (s : State) : Host.Outcome State Fault Refusal :=
  jumpTo (zeroImm raw) s

/-- `jump-abs-if-imm32` (46_control_flow.md R653). -/
def execJumpAbsIfImm32 (raw : BitVec 32) (s : State) : Host.Outcome State Fault Refusal :=
  jumpToWhen (zeroImm raw) isNonzero s

/-- `jump-abs-if-not-imm32` (46_control_flow.md R654). -/
def execJumpAbsIfNotImm32 (raw : BitVec 32) (s : State) : Host.Outcome State Fault Refusal :=
  jumpToWhen (zeroImm raw) isZero s

/-- `jump-rel-imm32` (46_control_flow.md R655). -/
def execJumpRelImm32 (raw : BitVec 32) (s : State) : Host.Outcome State Fault Refusal :=
  jumpBy (signImm raw) s

/-- `jump-rel-if-imm32` (46_control_flow.md R656). -/
def execJumpRelIfImm32 (raw : BitVec 32) (s : State) : Host.Outcome State Fault Refusal :=
  jumpByWhen (signImm raw) isNonzero s

/-- `jump-rel-if-not-imm32` (46_control_flow.md R657). -/
def execJumpRelIfNotImm32 (raw : BitVec 32) (s : State) : Host.Outcome State Fault Refusal :=
  jumpByWhen (signImm raw) isZero s

end Sys2Proof.Machine
end

