-- ==== Sys2Proof/Machine/LoadStore.lean ====
section
/-! DEFINITION. Loads and stores of data memory (44_load_store.md R549-R562). -/

namespace Sys2Proof.Machine

open Sys2Proof

/-- The extension of the zero-extending loads: `MemRead` already zero-extends (20_memory.md R207). -/
def extZero (v : Word) : Word := v

/-- `sext_8` of a loaded byte (44_load_store.md R554). -/
def extSign8 (v : Word) : Word := (v.setWidth 8).signExtend 32

/-- `sext_16` of a loaded half-word (44_load_store.md R555). -/
def extSign16 (v : Word) : Word := (v.setWidth 16).signExtend 32

/-- `load-u8` (44_load_store.md R551). -/
def execLoadU8 (s : State) : Host.Outcome State Fault Refusal :=
  load .popped .byte extZero s

/-- `load-u16` (44_load_store.md R552). -/
def execLoadU16 (s : State) : Host.Outcome State Fault Refusal :=
  load .popped .half extZero s

/-- `load-u32` (44_load_store.md R553). -/
def execLoadU32 (s : State) : Host.Outcome State Fault Refusal :=
  load .popped .word extZero s

/-- `load-s8` (44_load_store.md R554). -/
def execLoadS8 (s : State) : Host.Outcome State Fault Refusal :=
  load .popped .byte extSign8 s

/-- `load-s16` (44_load_store.md R555). -/
def execLoadS16 (s : State) : Host.Outcome State Fault Refusal :=
  load .popped .half extSign16 s

/-- `store-u8` (44_load_store.md R557). -/
def execStoreU8 (s : State) : Host.Outcome State Fault Refusal :=
  store .popped .byte s

/-- `store-u16` (44_load_store.md R558). -/
def execStoreU16 (s : State) : Host.Outcome State Fault Refusal :=
  store .popped .half s

/-- `store-u32` (44_load_store.md R559). -/
def execStoreU32 (s : State) : Host.Outcome State Fault Refusal :=
  store .popped .word s

/-- `store-u8-discard` (44_load_store.md R560). -/
def execStoreU8Discard (s : State) : Host.Outcome State Fault Refusal :=
  storeDiscard .popped .byte s

/-- `store-u16-discard` (44_load_store.md R561). -/
def execStoreU16Discard (s : State) : Host.Outcome State Fault Refusal :=
  storeDiscard .popped .half s

/-- `store-u32-discard` (44_load_store.md R562). -/
def execStoreU32Discard (s : State) : Host.Outcome State Fault Refusal :=
  storeDiscard .popped .word s

/-- `load-u8-imm8` (44_load_store.md R551). -/
def execLoadU8Imm8 (raw : BitVec 8) (s : State) : Host.Outcome State Fault Refusal :=
  load (zeroImm raw) .byte extZero s

/-- `load-u16-imm8` (44_load_store.md R552). -/
def execLoadU16Imm8 (raw : BitVec 8) (s : State) : Host.Outcome State Fault Refusal :=
  load (zeroImm raw) .half extZero s

/-- `load-u32-imm8` (44_load_store.md R553). -/
def execLoadU32Imm8 (raw : BitVec 8) (s : State) : Host.Outcome State Fault Refusal :=
  load (zeroImm raw) .word extZero s

/-- `load-s8-imm8` (44_load_store.md R554). -/
def execLoadS8Imm8 (raw : BitVec 8) (s : State) : Host.Outcome State Fault Refusal :=
  load (zeroImm raw) .byte extSign8 s

/-- `load-s16-imm8` (44_load_store.md R555). -/
def execLoadS16Imm8 (raw : BitVec 8) (s : State) : Host.Outcome State Fault Refusal :=
  load (zeroImm raw) .half extSign16 s

/-- `store-u8-imm8` (44_load_store.md R557). -/
def execStoreU8Imm8 (raw : BitVec 8) (s : State) : Host.Outcome State Fault Refusal :=
  store (zeroImm raw) .byte s

/-- `store-u16-imm8` (44_load_store.md R558). -/
def execStoreU16Imm8 (raw : BitVec 8) (s : State) : Host.Outcome State Fault Refusal :=
  store (zeroImm raw) .half s

/-- `store-u32-imm8` (44_load_store.md R559). -/
def execStoreU32Imm8 (raw : BitVec 8) (s : State) : Host.Outcome State Fault Refusal :=
  store (zeroImm raw) .word s

/-- `store-u8-discard-imm8` (44_load_store.md R560). -/
def execStoreU8DiscardImm8 (raw : BitVec 8) (s : State) : Host.Outcome State Fault Refusal :=
  storeDiscard (zeroImm raw) .byte s

/-- `store-u16-discard-imm8` (44_load_store.md R561). -/
def execStoreU16DiscardImm8 (raw : BitVec 8) (s : State) : Host.Outcome State Fault Refusal :=
  storeDiscard (zeroImm raw) .half s

/-- `store-u32-discard-imm8` (44_load_store.md R562). -/
def execStoreU32DiscardImm8 (raw : BitVec 8) (s : State) : Host.Outcome State Fault Refusal :=
  storeDiscard (zeroImm raw) .word s

/-- `load-u8-imm16` (44_load_store.md R551). -/
def execLoadU8Imm16 (raw : BitVec 16) (s : State) : Host.Outcome State Fault Refusal :=
  load (zeroImm raw) .byte extZero s

/-- `load-u16-imm16` (44_load_store.md R552). -/
def execLoadU16Imm16 (raw : BitVec 16) (s : State) : Host.Outcome State Fault Refusal :=
  load (zeroImm raw) .half extZero s

/-- `load-u32-imm16` (44_load_store.md R553). -/
def execLoadU32Imm16 (raw : BitVec 16) (s : State) : Host.Outcome State Fault Refusal :=
  load (zeroImm raw) .word extZero s

/-- `load-s8-imm16` (44_load_store.md R554). -/
def execLoadS8Imm16 (raw : BitVec 16) (s : State) : Host.Outcome State Fault Refusal :=
  load (zeroImm raw) .byte extSign8 s

/-- `load-s16-imm16` (44_load_store.md R555). -/
def execLoadS16Imm16 (raw : BitVec 16) (s : State) : Host.Outcome State Fault Refusal :=
  load (zeroImm raw) .half extSign16 s

/-- `store-u8-imm16` (44_load_store.md R557). -/
def execStoreU8Imm16 (raw : BitVec 16) (s : State) : Host.Outcome State Fault Refusal :=
  store (zeroImm raw) .byte s

/-- `store-u16-imm16` (44_load_store.md R558). -/
def execStoreU16Imm16 (raw : BitVec 16) (s : State) : Host.Outcome State Fault Refusal :=
  store (zeroImm raw) .half s

/-- `store-u32-imm16` (44_load_store.md R559). -/
def execStoreU32Imm16 (raw : BitVec 16) (s : State) : Host.Outcome State Fault Refusal :=
  store (zeroImm raw) .word s

/-- `store-u8-discard-imm16` (44_load_store.md R560). -/
def execStoreU8DiscardImm16 (raw : BitVec 16) (s : State) : Host.Outcome State Fault Refusal :=
  storeDiscard (zeroImm raw) .byte s

/-- `store-u16-discard-imm16` (44_load_store.md R561). -/
def execStoreU16DiscardImm16 (raw : BitVec 16) (s : State) : Host.Outcome State Fault Refusal :=
  storeDiscard (zeroImm raw) .half s

/-- `store-u32-discard-imm16` (44_load_store.md R562). -/
def execStoreU32DiscardImm16 (raw : BitVec 16) (s : State) : Host.Outcome State Fault Refusal :=
  storeDiscard (zeroImm raw) .word s

/-- `load-u8-imm32` (44_load_store.md R551). -/
def execLoadU8Imm32 (raw : BitVec 32) (s : State) : Host.Outcome State Fault Refusal :=
  load (zeroImm raw) .byte extZero s

/-- `load-u16-imm32` (44_load_store.md R552). -/
def execLoadU16Imm32 (raw : BitVec 32) (s : State) : Host.Outcome State Fault Refusal :=
  load (zeroImm raw) .half extZero s

/-- `load-u32-imm32` (44_load_store.md R553). -/
def execLoadU32Imm32 (raw : BitVec 32) (s : State) : Host.Outcome State Fault Refusal :=
  load (zeroImm raw) .word extZero s

/-- `load-s8-imm32` (44_load_store.md R554). -/
def execLoadS8Imm32 (raw : BitVec 32) (s : State) : Host.Outcome State Fault Refusal :=
  load (zeroImm raw) .byte extSign8 s

/-- `load-s16-imm32` (44_load_store.md R555). -/
def execLoadS16Imm32 (raw : BitVec 32) (s : State) : Host.Outcome State Fault Refusal :=
  load (zeroImm raw) .half extSign16 s

/-- `store-u8-imm32` (44_load_store.md R557). -/
def execStoreU8Imm32 (raw : BitVec 32) (s : State) : Host.Outcome State Fault Refusal :=
  store (zeroImm raw) .byte s

/-- `store-u16-imm32` (44_load_store.md R558). -/
def execStoreU16Imm32 (raw : BitVec 32) (s : State) : Host.Outcome State Fault Refusal :=
  store (zeroImm raw) .half s

/-- `store-u32-imm32` (44_load_store.md R559). -/
def execStoreU32Imm32 (raw : BitVec 32) (s : State) : Host.Outcome State Fault Refusal :=
  store (zeroImm raw) .word s

/-- `store-u8-discard-imm32` (44_load_store.md R560). -/
def execStoreU8DiscardImm32 (raw : BitVec 32) (s : State) : Host.Outcome State Fault Refusal :=
  storeDiscard (zeroImm raw) .byte s

/-- `store-u16-discard-imm32` (44_load_store.md R561). -/
def execStoreU16DiscardImm32 (raw : BitVec 32) (s : State) : Host.Outcome State Fault Refusal :=
  storeDiscard (zeroImm raw) .half s

/-- `store-u32-discard-imm32` (44_load_store.md R562). -/
def execStoreU32DiscardImm32 (raw : BitVec 32) (s : State) : Host.Outcome State Fault Refusal :=
  storeDiscard (zeroImm raw) .word s

end Sys2Proof.Machine
end

