-- ==== Sys2Proof/Machine/Stack.lean ====
section
/-! DEFINITION. The stack instructions (41_stack.md R405-R409). -/

namespace Sys2Proof.Machine

open Sys2Proof

/-- The push instructions (41_stack.md R405, R406). -/
def pushWord (v : Word) (s : State) : Host.Outcome State Fault Refusal := (push v s).outcome

/-- `drop` (41_stack.md R407). -/
def execDrop (s : State) : Host.Outcome State Fault Refusal :=
  ((pop s).andThen fun _ s1 => .ok () s1).outcome

/-- `dup` (41_stack.md R408). -/
def execDup (s : State) : Host.Outcome State Fault Refusal :=
  ((pop s).andThen fun x s1 => (push x s1).andThen fun _ s2 => push x s2).outcome

/-- `swap` (41_stack.md R409). -/
def execSwap (s : State) : Host.Outcome State Fault Refusal :=
  ((pop s).andThen fun y s1 => (pop s1).andThen fun x s2 =>
    (push y s2).andThen fun _ s3 => push x s3).outcome

/-- `push-u8` (41_stack.md R405). -/
def execPushU8 (raw : BitVec 8) (s : State) : Host.Outcome State Fault Refusal :=
  pushWord (raw.setWidth 32) s

/-- `push-s8` (41_stack.md R406). -/
def execPushS8 (raw : BitVec 8) (s : State) : Host.Outcome State Fault Refusal :=
  pushWord (raw.signExtend 32) s

/-- `push-u16` (41_stack.md R405). -/
def execPushU16 (raw : BitVec 16) (s : State) : Host.Outcome State Fault Refusal :=
  pushWord (raw.setWidth 32) s

/-- `push-s16` (41_stack.md R406). -/
def execPushS16 (raw : BitVec 16) (s : State) : Host.Outcome State Fault Refusal :=
  pushWord (raw.signExtend 32) s

/-- `push-u32` (41_stack.md R405). -/
def execPushU32 (raw : BitVec 32) (s : State) : Host.Outcome State Fault Refusal :=
  pushWord (raw.setWidth 32) s

/-- `push-s32` (41_stack.md R406). -/
def execPushS32 (raw : BitVec 32) (s : State) : Host.Outcome State Fault Refusal :=
  pushWord (raw.signExtend 32) s

end Sys2Proof.Machine
end

