-- ==== Sys2Proof/Machine/System.lean ====
section
/-! DEFINITION. halt and syscall, and what a syscall hook may do (47_system.md). -/

namespace Sys2Proof.Machine

open Sys2Proof

/-- What the hook sees of the VM (47_system.md R707; 10_state.md R113: `ip` is already past the
`syscall` and the call number is popped). -/
def hookView (s : State) : HookView :=
  { ip := s.ip, sp := s.sp, stack := s.stack, program := s.program, data := s.data }

/-- The run of the hook that this call performs: the next one the state holds, or the free value
`Config.hookRun` where it holds none (log 1). -/
def nextHookRun (hook : Nat) (n : Word) (s : State) : List HookAct :=
  match s.hookRuns with
  | [] => Config.hookRun hook s.hookCount n (hookView s)
  | run :: _ => run

/-- After a hook primitive: the hook goes on, or its fault ends the instruction (47_system.md R708). -/
def afterPrimitive {α : Type} (r : Res α) (k : State → Host.Outcome State Fault Refusal) :
    Host.Outcome State Fault Refusal :=
  match r with
  | .ok _ s => k s
  | .raised s => .next s

/-- `HostCall` (47_system.md R705): performs the hook's actions in order until it returns, raises
(R708), breaks a duty (R710) or is found never to return. No action of a hook reaches the encoder or the
decoder: the spec does not say whether one may, and the model takes codec commands only between `exec`
calls (DESIGN CHOICE, unsafe, log 17). -/
def runHook : List HookAct → State → Host.Outcome State Fault Refusal
  | [], s => .next s
  | .inspect :: rest, s => runHook rest s
  | .outside :: rest, s => runHook rest s
  | .pop :: rest, s => afterPrimitive (pop s) (runHook rest)
  | .push v :: rest, s => afterPrimitive (push v s) (runHook rest)
  | .memRead a w :: rest, s => afterPrimitive (memRead a w s) (runHook rest)
  | .memWrite a w v :: rest, s => afterPrimitive (memWrite a w v s) (runHook rest)
  | .raise c :: _, s => if c = .success then .refused .hookRaisesSuccess else .next (raise c s)
  | .breach b :: _, _ => .refused (.hookBreaksDuty b)
  | .spin :: _, _ => .fault .hookNeverReturns

/-- `syscall` (47_system.md R705): the call number first, then the check for a hook, then the hook. -/
def sysCall (o : Operand) (s : State) : Host.Outcome State Fault Refusal :=
  match o.take s with
  | .raised s1 => .next s1
  | .ok n s1 =>
    match s1.hook with
    | none => .next (raise .badSyscall s1)
    | some h => runHook (nextHookRun h n s1) (s1.setHookRuns s1.hookRuns.tail)

/-- `halt` (47_system.md R700). -/
def execHalt (s : State) : Host.Outcome State Fault Refusal :=
  .next (raise .halted s)

/-- `syscall` (47_system.md R705). -/
def execSyscall (s : State) : Host.Outcome State Fault Refusal :=
  sysCall .popped s

/-- `syscall-imm8` (47_system.md R705). -/
def execSyscallImm8 (raw : BitVec 8) (s : State) : Host.Outcome State Fault Refusal :=
  sysCall (zeroImm raw) s

/-- `syscall-imm16` (47_system.md R705). -/
def execSyscallImm16 (raw : BitVec 16) (s : State) : Host.Outcome State Fault Refusal :=
  sysCall (zeroImm raw) s

/-- `syscall-imm32` (47_system.md R705). -/
def execSyscallImm32 (raw : BitVec 32) (s : State) : Host.Outcome State Fault Refusal :=
  sysCall (zeroImm raw) s

end Sys2Proof.Machine
end

