-- ==== Sys2Proof/Machine/Dispatch.lean ====
section
/-! DEFINITION. One arm per instruction: the execute phase (30_encoding.md R318), run with `ip` already at
the next instruction. -/

namespace Sys2Proof.Machine

open Sys2Proof

def exec (i : Instr) (s : State) : Host.Outcome State Fault Refusal :=
  match i with
  | .halt => Sys2Proof.Machine.execHalt s
  | .drop => Sys2Proof.Machine.execDrop s
  | .dup => Sys2Proof.Machine.execDup s
  | .swap => Sys2Proof.Machine.execSwap s
  | .add => Sys2Proof.Machine.execAdd s
  | .sub => Sys2Proof.Machine.execSub s
  | .mul => Sys2Proof.Machine.execMul s
  | .and => Sys2Proof.Machine.execAnd s
  | .or => Sys2Proof.Machine.execOr s
  | .xor => Sys2Proof.Machine.execXor s
  | .shl => Sys2Proof.Machine.execShl s
  | .shrUi => Sys2Proof.Machine.execShrUi s
  | .shrSi => Sys2Proof.Machine.execShrSi s
  | .not => Sys2Proof.Machine.execNot s
  | .neg => Sys2Proof.Machine.execNeg s
  | .lnot => Sys2Proof.Machine.execLnot s
  | .eq => Sys2Proof.Machine.execEq s
  | .ne => Sys2Proof.Machine.execNe s
  | .ltUi => Sys2Proof.Machine.execLtUi s
  | .leUi => Sys2Proof.Machine.execLeUi s
  | .gtUi => Sys2Proof.Machine.execGtUi s
  | .geUi => Sys2Proof.Machine.execGeUi s
  | .ltSi => Sys2Proof.Machine.execLtSi s
  | .leSi => Sys2Proof.Machine.execLeSi s
  | .gtSi => Sys2Proof.Machine.execGtSi s
  | .geSi => Sys2Proof.Machine.execGeSi s
  | .loadU8 => Sys2Proof.Machine.execLoadU8 s
  | .loadU16 => Sys2Proof.Machine.execLoadU16 s
  | .loadU32 => Sys2Proof.Machine.execLoadU32 s
  | .loadS8 => Sys2Proof.Machine.execLoadS8 s
  | .loadS16 => Sys2Proof.Machine.execLoadS16 s
  | .storeU8 => Sys2Proof.Machine.execStoreU8 s
  | .storeU16 => Sys2Proof.Machine.execStoreU16 s
  | .storeU32 => Sys2Proof.Machine.execStoreU32 s
  | .storeU8Discard => Sys2Proof.Machine.execStoreU8Discard s
  | .storeU16Discard => Sys2Proof.Machine.execStoreU16Discard s
  | .storeU32Discard => Sys2Proof.Machine.execStoreU32Discard s
  | .dcopy => Sys2Proof.Machine.execDcopy s
  | .pcopy => Sys2Proof.Machine.execPcopy s
  | .call => Sys2Proof.Machine.execCall s
  | .jumpAbs => Sys2Proof.Machine.execJumpAbs s
  | .jumpAbsIf => Sys2Proof.Machine.execJumpAbsIf s
  | .jumpAbsIfNot => Sys2Proof.Machine.execJumpAbsIfNot s
  | .jumpRel => Sys2Proof.Machine.execJumpRel s
  | .jumpRelIf => Sys2Proof.Machine.execJumpRelIf s
  | .jumpRelIfNot => Sys2Proof.Machine.execJumpRelIfNot s
  | .syscall => Sys2Proof.Machine.execSyscall s
  | .pushU8 raw => Sys2Proof.Machine.execPushU8 raw s
  | .pushS8 raw => Sys2Proof.Machine.execPushS8 raw s
  | .addImm8 raw => Sys2Proof.Machine.execAddImm8 raw s
  | .subImm8 raw => Sys2Proof.Machine.execSubImm8 raw s
  | .mulImm8 raw => Sys2Proof.Machine.execMulImm8 raw s
  | .andImm8 raw => Sys2Proof.Machine.execAndImm8 raw s
  | .orImm8 raw => Sys2Proof.Machine.execOrImm8 raw s
  | .xorImm8 raw => Sys2Proof.Machine.execXorImm8 raw s
  | .shlImm8 raw => Sys2Proof.Machine.execShlImm8 raw s
  | .shrUiImm8 raw => Sys2Proof.Machine.execShrUiImm8 raw s
  | .shrSiImm8 raw => Sys2Proof.Machine.execShrSiImm8 raw s
  | .notImm8 raw => Sys2Proof.Machine.execNotImm8 raw s
  | .negImm8 raw => Sys2Proof.Machine.execNegImm8 raw s
  | .lnotImm8 raw => Sys2Proof.Machine.execLnotImm8 raw s
  | .eqImm8 raw => Sys2Proof.Machine.execEqImm8 raw s
  | .neImm8 raw => Sys2Proof.Machine.execNeImm8 raw s
  | .ltUiImm8 raw => Sys2Proof.Machine.execLtUiImm8 raw s
  | .leUiImm8 raw => Sys2Proof.Machine.execLeUiImm8 raw s
  | .gtUiImm8 raw => Sys2Proof.Machine.execGtUiImm8 raw s
  | .geUiImm8 raw => Sys2Proof.Machine.execGeUiImm8 raw s
  | .ltSiImm8 raw => Sys2Proof.Machine.execLtSiImm8 raw s
  | .leSiImm8 raw => Sys2Proof.Machine.execLeSiImm8 raw s
  | .gtSiImm8 raw => Sys2Proof.Machine.execGtSiImm8 raw s
  | .geSiImm8 raw => Sys2Proof.Machine.execGeSiImm8 raw s
  | .loadU8Imm8 raw => Sys2Proof.Machine.execLoadU8Imm8 raw s
  | .loadU16Imm8 raw => Sys2Proof.Machine.execLoadU16Imm8 raw s
  | .loadU32Imm8 raw => Sys2Proof.Machine.execLoadU32Imm8 raw s
  | .loadS8Imm8 raw => Sys2Proof.Machine.execLoadS8Imm8 raw s
  | .loadS16Imm8 raw => Sys2Proof.Machine.execLoadS16Imm8 raw s
  | .storeU8Imm8 raw => Sys2Proof.Machine.execStoreU8Imm8 raw s
  | .storeU16Imm8 raw => Sys2Proof.Machine.execStoreU16Imm8 raw s
  | .storeU32Imm8 raw => Sys2Proof.Machine.execStoreU32Imm8 raw s
  | .storeU8DiscardImm8 raw => Sys2Proof.Machine.execStoreU8DiscardImm8 raw s
  | .storeU16DiscardImm8 raw => Sys2Proof.Machine.execStoreU16DiscardImm8 raw s
  | .storeU32DiscardImm8 raw => Sys2Proof.Machine.execStoreU32DiscardImm8 raw s
  | .dcopyImm8 raw => Sys2Proof.Machine.execDcopyImm8 raw s
  | .pcopyImm8 raw => Sys2Proof.Machine.execPcopyImm8 raw s
  | .callImm8 raw => Sys2Proof.Machine.execCallImm8 raw s
  | .jumpAbsImm8 raw => Sys2Proof.Machine.execJumpAbsImm8 raw s
  | .jumpAbsIfImm8 raw => Sys2Proof.Machine.execJumpAbsIfImm8 raw s
  | .jumpAbsIfNotImm8 raw => Sys2Proof.Machine.execJumpAbsIfNotImm8 raw s
  | .jumpRelImm8 raw => Sys2Proof.Machine.execJumpRelImm8 raw s
  | .jumpRelIfImm8 raw => Sys2Proof.Machine.execJumpRelIfImm8 raw s
  | .jumpRelIfNotImm8 raw => Sys2Proof.Machine.execJumpRelIfNotImm8 raw s
  | .syscallImm8 raw => Sys2Proof.Machine.execSyscallImm8 raw s
  | .pushU16 raw => Sys2Proof.Machine.execPushU16 raw s
  | .pushS16 raw => Sys2Proof.Machine.execPushS16 raw s
  | .addImm16 raw => Sys2Proof.Machine.execAddImm16 raw s
  | .subImm16 raw => Sys2Proof.Machine.execSubImm16 raw s
  | .mulImm16 raw => Sys2Proof.Machine.execMulImm16 raw s
  | .andImm16 raw => Sys2Proof.Machine.execAndImm16 raw s
  | .orImm16 raw => Sys2Proof.Machine.execOrImm16 raw s
  | .xorImm16 raw => Sys2Proof.Machine.execXorImm16 raw s
  | .shlImm16 raw => Sys2Proof.Machine.execShlImm16 raw s
  | .shrUiImm16 raw => Sys2Proof.Machine.execShrUiImm16 raw s
  | .shrSiImm16 raw => Sys2Proof.Machine.execShrSiImm16 raw s
  | .notImm16 raw => Sys2Proof.Machine.execNotImm16 raw s
  | .negImm16 raw => Sys2Proof.Machine.execNegImm16 raw s
  | .lnotImm16 raw => Sys2Proof.Machine.execLnotImm16 raw s
  | .eqImm16 raw => Sys2Proof.Machine.execEqImm16 raw s
  | .neImm16 raw => Sys2Proof.Machine.execNeImm16 raw s
  | .ltUiImm16 raw => Sys2Proof.Machine.execLtUiImm16 raw s
  | .leUiImm16 raw => Sys2Proof.Machine.execLeUiImm16 raw s
  | .gtUiImm16 raw => Sys2Proof.Machine.execGtUiImm16 raw s
  | .geUiImm16 raw => Sys2Proof.Machine.execGeUiImm16 raw s
  | .ltSiImm16 raw => Sys2Proof.Machine.execLtSiImm16 raw s
  | .leSiImm16 raw => Sys2Proof.Machine.execLeSiImm16 raw s
  | .gtSiImm16 raw => Sys2Proof.Machine.execGtSiImm16 raw s
  | .geSiImm16 raw => Sys2Proof.Machine.execGeSiImm16 raw s
  | .loadU8Imm16 raw => Sys2Proof.Machine.execLoadU8Imm16 raw s
  | .loadU16Imm16 raw => Sys2Proof.Machine.execLoadU16Imm16 raw s
  | .loadU32Imm16 raw => Sys2Proof.Machine.execLoadU32Imm16 raw s
  | .loadS8Imm16 raw => Sys2Proof.Machine.execLoadS8Imm16 raw s
  | .loadS16Imm16 raw => Sys2Proof.Machine.execLoadS16Imm16 raw s
  | .storeU8Imm16 raw => Sys2Proof.Machine.execStoreU8Imm16 raw s
  | .storeU16Imm16 raw => Sys2Proof.Machine.execStoreU16Imm16 raw s
  | .storeU32Imm16 raw => Sys2Proof.Machine.execStoreU32Imm16 raw s
  | .storeU8DiscardImm16 raw => Sys2Proof.Machine.execStoreU8DiscardImm16 raw s
  | .storeU16DiscardImm16 raw => Sys2Proof.Machine.execStoreU16DiscardImm16 raw s
  | .storeU32DiscardImm16 raw => Sys2Proof.Machine.execStoreU32DiscardImm16 raw s
  | .dcopyImm16 raw => Sys2Proof.Machine.execDcopyImm16 raw s
  | .pcopyImm16 raw => Sys2Proof.Machine.execPcopyImm16 raw s
  | .callImm16 raw => Sys2Proof.Machine.execCallImm16 raw s
  | .jumpAbsImm16 raw => Sys2Proof.Machine.execJumpAbsImm16 raw s
  | .jumpAbsIfImm16 raw => Sys2Proof.Machine.execJumpAbsIfImm16 raw s
  | .jumpAbsIfNotImm16 raw => Sys2Proof.Machine.execJumpAbsIfNotImm16 raw s
  | .jumpRelImm16 raw => Sys2Proof.Machine.execJumpRelImm16 raw s
  | .jumpRelIfImm16 raw => Sys2Proof.Machine.execJumpRelIfImm16 raw s
  | .jumpRelIfNotImm16 raw => Sys2Proof.Machine.execJumpRelIfNotImm16 raw s
  | .syscallImm16 raw => Sys2Proof.Machine.execSyscallImm16 raw s
  | .pushU32 raw => Sys2Proof.Machine.execPushU32 raw s
  | .pushS32 raw => Sys2Proof.Machine.execPushS32 raw s
  | .addImm32 raw => Sys2Proof.Machine.execAddImm32 raw s
  | .subImm32 raw => Sys2Proof.Machine.execSubImm32 raw s
  | .mulImm32 raw => Sys2Proof.Machine.execMulImm32 raw s
  | .andImm32 raw => Sys2Proof.Machine.execAndImm32 raw s
  | .orImm32 raw => Sys2Proof.Machine.execOrImm32 raw s
  | .xorImm32 raw => Sys2Proof.Machine.execXorImm32 raw s
  | .shlImm32 raw => Sys2Proof.Machine.execShlImm32 raw s
  | .shrUiImm32 raw => Sys2Proof.Machine.execShrUiImm32 raw s
  | .shrSiImm32 raw => Sys2Proof.Machine.execShrSiImm32 raw s
  | .notImm32 raw => Sys2Proof.Machine.execNotImm32 raw s
  | .negImm32 raw => Sys2Proof.Machine.execNegImm32 raw s
  | .lnotImm32 raw => Sys2Proof.Machine.execLnotImm32 raw s
  | .eqImm32 raw => Sys2Proof.Machine.execEqImm32 raw s
  | .neImm32 raw => Sys2Proof.Machine.execNeImm32 raw s
  | .ltUiImm32 raw => Sys2Proof.Machine.execLtUiImm32 raw s
  | .leUiImm32 raw => Sys2Proof.Machine.execLeUiImm32 raw s
  | .gtUiImm32 raw => Sys2Proof.Machine.execGtUiImm32 raw s
  | .geUiImm32 raw => Sys2Proof.Machine.execGeUiImm32 raw s
  | .ltSiImm32 raw => Sys2Proof.Machine.execLtSiImm32 raw s
  | .leSiImm32 raw => Sys2Proof.Machine.execLeSiImm32 raw s
  | .gtSiImm32 raw => Sys2Proof.Machine.execGtSiImm32 raw s
  | .geSiImm32 raw => Sys2Proof.Machine.execGeSiImm32 raw s
  | .loadU8Imm32 raw => Sys2Proof.Machine.execLoadU8Imm32 raw s
  | .loadU16Imm32 raw => Sys2Proof.Machine.execLoadU16Imm32 raw s
  | .loadU32Imm32 raw => Sys2Proof.Machine.execLoadU32Imm32 raw s
  | .loadS8Imm32 raw => Sys2Proof.Machine.execLoadS8Imm32 raw s
  | .loadS16Imm32 raw => Sys2Proof.Machine.execLoadS16Imm32 raw s
  | .storeU8Imm32 raw => Sys2Proof.Machine.execStoreU8Imm32 raw s
  | .storeU16Imm32 raw => Sys2Proof.Machine.execStoreU16Imm32 raw s
  | .storeU32Imm32 raw => Sys2Proof.Machine.execStoreU32Imm32 raw s
  | .storeU8DiscardImm32 raw => Sys2Proof.Machine.execStoreU8DiscardImm32 raw s
  | .storeU16DiscardImm32 raw => Sys2Proof.Machine.execStoreU16DiscardImm32 raw s
  | .storeU32DiscardImm32 raw => Sys2Proof.Machine.execStoreU32DiscardImm32 raw s
  | .dcopyImm32 raw => Sys2Proof.Machine.execDcopyImm32 raw s
  | .pcopyImm32 raw => Sys2Proof.Machine.execPcopyImm32 raw s
  | .callImm32 raw => Sys2Proof.Machine.execCallImm32 raw s
  | .jumpAbsImm32 raw => Sys2Proof.Machine.execJumpAbsImm32 raw s
  | .jumpAbsIfImm32 raw => Sys2Proof.Machine.execJumpAbsIfImm32 raw s
  | .jumpAbsIfNotImm32 raw => Sys2Proof.Machine.execJumpAbsIfNotImm32 raw s
  | .jumpRelImm32 raw => Sys2Proof.Machine.execJumpRelImm32 raw s
  | .jumpRelIfImm32 raw => Sys2Proof.Machine.execJumpRelIfImm32 raw s
  | .jumpRelIfNotImm32 raw => Sys2Proof.Machine.execJumpRelIfNotImm32 raw s
  | .syscallImm32 raw => Sys2Proof.Machine.execSyscallImm32 raw s

end Sys2Proof.Machine
end

