-- ==== Sys2Proof/Machine/Codec.lean ====
section
/-! DEFINITION. The frame codec (48_frame_codec.md): the encoder's commands and the decoder's step, over
the frame format of 30_encoding.md R350, R351. -/

namespace Sys2Proof.Machine

open Sys2Proof

/-- The frame header byte (30_encoding.md R350): bit 7 final, bit 6 delimiter, bits 5-0 length. -/
def frameHeader (final delim : Bool) (count : Nat) : Byte :=
  (if final then 0x80 else 0) ||| (if delim then 0x40 else 0) ||| BitVec.ofNat 8 count

/-- The payload length a header declares, bits 5-0 (30_encoding.md R350). -/
def headerLength (h : Byte) : Nat := (h &&& 0x3F).toNat

/-- The delimiter bit of a header, bit 6 (30_encoding.md R350). -/
def headerDelim (h : Byte) : Bool := h.getLsbD 6

/-- The final bit of a header, bit 7 (30_encoding.md R350). -/
def headerFinal (h : Byte) : Bool := h.getLsbD 7

/-- `enc_init(frame_write)` (48_frame_codec.md R751). A missing callback leaves the encoder unusable
(log 7); the payload bytes stay, unspecified. -/
def encInit (sink : Bool) (s : State) : State × CodecResult :=
  if sink then
    (s.setEnc { s.enc with bound := true, count := 0, final := false, delim := false }, .ok)
  else (s.setEnc { s.enc with bound := false }, .nullArgument)

/-- `Flush()` (48_frame_codec.md R752). The frame sink takes the frame and does nothing else: the spec
forbids it a command of this encoder (R777) and does not say whether it may command the VM or the
decoder; in the model it does not (DESIGN CHOICE, unsafe, log 18). -/
def encFlush (s : State) : State :=
  (s.addFrame (frameHeader s.enc.final s.enc.delim s.enc.count ::
      s.enc.payload.take s.enc.count)).setEnc
    { s.enc with count := 0, final := false, delim := false }

/-- `append_u8(b)` (48_frame_codec.md R753): the check for a full frame follows the append. -/
def appendU8 (b : Byte) (s : State) : State :=
  let t := s.setEnc { s.enc with payload := s.enc.payload.set s.enc.count b,
                                 count := s.enc.count + 1 }
  if t.enc.count = frameMaxPayload then encFlush t else t

/-- `append_buf(bytes)` (48_frame_codec.md R754). -/
def appendBuf : List Byte → State → State
  | [], s => s
  | b :: rest, s => appendBuf rest (appendU8 b s)

/-- `set_final(f)` (48_frame_codec.md R755). -/
def setFinal (f : Bool) (s : State) : State := s.setEnc { s.enc with final := f }

/-- `set_delimited(d)` (48_frame_codec.md R755). -/
def setDelimited (d : Bool) (s : State) : State := s.setEnc { s.enc with delim := d }

/-- `write()` (48_frame_codec.md R756): with no pending payload byte nothing changes. -/
def encWrite (s : State) : State × CodecResult :=
  if s.enc.count = 0 then (s, .zeroLength) else (encFlush s, .ok)

/-- `write_zero()` (48_frame_codec.md R757). -/
def encWriteZero (s : State) : State × CodecResult := (encFlush s, .ok)

/-- `dec_init(read, on_delimiter, on_data, on_final)` (48_frame_codec.md R770). A missing callback leaves
the decoder uninitialised (log 7). -/
def decInit (read onDelimiter onData onFinal : Bool) (s : State) : State × CodecResult :=
  if read && onDelimiter && onData && onFinal then
    (s.setDec { s.dec with bound := true, idx := 0 }, .ok)
  else (s.setDec { s.dec with bound := false }, .nullArgument)

/-- `dec_len` (10_state.md R121): the payload length declared by the buffered header. -/
def decLength (d : Decoder) : Nat := headerLength (d.buf.headD 0)

/-- How many bytes the decoder asks its one read for (48_frame_codec.md R771). -/
def decWant (d : Decoder) : Nat := if d.idx = 0 then 1 else decLength d + 1 - d.idx

/-- The read stores bytes at `dec_buf[dec_idx]` and on, and `dec_idx` moves past them. -/
def decStore (d : Decoder) (got : List Byte) : Decoder :=
  { d with buf := d.buf.take d.idx ++ got ++ d.buf.drop (d.idx + got.length),
           idx := d.idx + got.length }

/-- The callbacks of a completed frame, in order (48_frame_codec.md R772). -/
def frameEvents (d : Decoder) : List DecEvent :=
  (if headerDelim (d.buf.headD 0) then [.delimiter] else []) ++
  (if decLength d > 0 then [.data ((d.buf.drop 1).take (decLength d))] else []) ++
  (if headerFinal (d.buf.headD 0) then [.final] else [])

/-- `read_frame_step()` (48_frame_codec.md R771), where `got` is what the read delivers: nothing is
`NoData`; more than was asked is refused (R774). The read and the event callbacks do nothing else: the
spec forbids them a step of this decoder (R777) and does not say whether they may command the VM or the
encoder; in the model they do not (DESIGN CHOICE, unsafe, log 18). -/
def readFrameStep (got : List Byte) (s : State) : Host.Outcome State Fault Refusal :=
  if got.length > decWant s.dec then .refused .readReportsTooMuch
  else if got.isEmpty then .next (s.setRet (.codec .noData))
  else
    let d := decStore s.dec got
    if d.idx = decLength d + 1 then
      .next (((s.setDec { d with idx := 0 }).addEvents (frameEvents d)).setRet (.codec .ok))
    else .next ((s.setDec d).setRet (.codec .ok))

end Sys2Proof.Machine
end

