-- ==== Sys2Proof/Machine/HostCalls.lean ====
section
/-! DEFINITION. The host's calls: `exec`, `error_ack`, `reset`, data access (60_exceptions.md R910-R913,
R925) and the codec's commands (48_frame_codec.md). A call is one step, but for `exec`, which opens a
budget that the next steps run instructions under. -/

namespace Sys2Proof.Machine

open Sys2Proof

/-- `exec(count)` up to its first instruction (60_exceptions.md R910, R911): in `Faulted` it returns the
latched code and nothing changes; a budget of 0 returns `Success`. -/
def openExec (count : Word) (s : State) : State :=
  if s.err ≠ .success then s.setRet (.err s.err)
  else if count.toNat = 0 then s.setRet (.err .success)
  else s.setBudget count.toNat

/-- The end of one turn of `exec`'s loop (60_exceptions.md R910): a latched fault or a used-up budget
returns to the host. -/
def closeInstruction (s : State) : State :=
  if s.err ≠ .success then (s.setBudget 0).setRet (.err s.err)
  else if s.budget ≤ 1 then (s.setBudget 0).setRet (.err .success)
  else s.setBudget (s.budget - 1)

/-- A codec command's new state with its result. -/
def returnCodec (r : State × CodecResult) : Host.Outcome State Fault Refusal :=
  .next (r.1.setRet (.codec r.2))

/-- A command to the encoder, refused when it is not initialised (70_reset_and_hazards.md R1006). -/
def withEncoder (f : State → State × CodecResult) (s : State) :
    Host.Outcome State Fault Refusal :=
  if s.enc.bound then returnCodec (f s) else .refused .encoderNotInitialised

/-- The host writes one data byte (20_memory.md R222, 60_exceptions.md R925); an address beyond the
buffer names no byte (log 14). -/
def hostWriteData (a : Nat) (b : Byte) (s : State) : Host.Outcome State Fault Refusal :=
  if a < s.data.len then .next ((s.setData (Buffer.set s.data a b)).setRet .nothing)
  else .refused .hostWritesOutsideData

/-- The host inspects the VM (60_exceptions.md R925, 10_state.md R110): the value is what the call
returns, and nothing else changes. An index or address that names nothing is refused (log 14). -/
def hostInspect (what : Inspected) (s : State) : Host.Outcome State Fault Refusal :=
  match what with
  | .ip => .next (s.setRet (.word s.ip))
  | .sp => .next (s.setRet (.slots s.sp))
  | .err => .next (s.setRet (.err s.err))
  | .cell i =>
    match s.stack[i]? with
    | some v => .next (s.setRet (.word v))
    | none => .refused .hostReadsNoCell
  | .dataByte a =>
    if a < s.data.len then .next (s.setRet (.byte (Buffer.get s.data a)))
    else .refused .hostReadsOutsideData

/-- Performs one host call. -/
def hostCall (c : HostCall) (s : State) : Host.Outcome State Fault Refusal :=
  match c with
  | .exec count => .next (openExec count s)
  | .errorAck => .next ((errorAck s).setRet .nothing)
  | .reset => .next ((resetVm s).setRet .nothing)
  | .inspect what => hostInspect what s
  | .writeData a b => hostWriteData a b s
  | .encInit sink => returnCodec (encInit sink s)
  | .appendU8 b => withEncoder (fun s => (appendU8 b s, .ok)) s
  | .appendBuf bytes => withEncoder (fun s => (appendBuf bytes s, .ok)) s
  | .setFinal f => withEncoder (fun s => (setFinal f s, .ok)) s
  | .setDelimited d => withEncoder (fun s => (setDelimited d s, .ok)) s
  | .write => withEncoder encWrite s
  | .writeZero => withEncoder encWriteZero s
  | .decInit r d p f => returnCodec (decInit r d p f s)
  | .readFrameStep got =>
    if s.dec.bound then readFrameStep got s else .refused .decoderNotInitialised
  | .breach b => .refused (.hostBreaksDuty b)

/-- The host's turn: its next call, or nothing when it makes none (60_exceptions.md R928, log 5). -/
def hostTurn (s : State) : Host.Outcome State Fault Refusal :=
  match s.calls with
  | [] => .next s
  | c :: rest => hostCall c (s.setCalls rest)

end Sys2Proof.Machine
end

