-- ==== Sys2Proof/Machine/Cycle.lean ====
section
/-! DEFINITION. The instruction cycle (30_encoding.md R319) and one turn of the loop of `exec`
(60_exceptions.md R910). -/

namespace Sys2Proof.Machine

open Sys2Proof

/-- `Step()` (30_encoding.md R319): fetch, commit of `ip`, decode, execute. A fetch fault leaves `ip`
(R316); a byte that decodes to no instruction raises `BadOpcode` after the commit (R317). -/
def runInstruction (s : State) : Host.Outcome State Fault Refusal :=
  match fetch s with
  | none => .next (raise .programAddressOutOfBounds s)
  | some bytes =>
    match decode bytes with
    | .instr i _ => exec i (commit bytes s)
    | .rejected _ => .next (raise .badOpcode (commit bytes s))

/-- What `exec`'s loop adds after an instruction (60_exceptions.md R910). -/
def closeOutcome (o : Host.Outcome State Fault Refusal) : Host.Outcome State Fault Refusal :=
  match o with
  | .next s => .next (closeInstruction s)
  | .fault r => .fault r
  | .refused r => .refused r

/-- One turn of the loop of `exec` (60_exceptions.md R910). With a fault latched no instruction runs and
`exec` returns it (10_state.md R107). -/
def execTurn (s : State) : Host.Outcome State Fault Refusal :=
  if s.err ≠ .success then .next (closeInstruction s) else closeOutcome (runInstruction s)

end Sys2Proof.Machine
end

