-- ==== Sys2Proof/Machine/Step.lean ====
section
/-! DEFINITION. One step of the whole machine, and the placing of one instruction where the step fetches
it. -/

namespace Sys2Proof.Machine

open Sys2Proof

/-- One step: an instruction of the `exec` call in progress, or, when the host has control, the host's
next call (70_reset_and_hazards.md R1020). -/
def step (s : State) : Host.Outcome State Fault Refusal :=
  if s.budget = 0 then hostTurn s else execTurn s

/-- `s` with the instruction whose bits are `w` (`nbits` of them, the bits above zero) stored where the
next step fetches, and an `exec` call in progress (log 6). -/
def State.withFetchWord (s : State) (nbits w : Nat) : State :=
  placeInstruction (tableBytes 5 nbits w) s

end Sys2Proof.Machine
end

