-- ==== Sys2Proof/Safety.lean ====
section
/-! DEFINITION. The terms claims use: the live values of the stack, the states `Ready` and `Faulted`,
the invariant of the machine, and what an instruction cannot touch. -/

namespace Sys2Proof.Machine

open Sys2Proof

/-- The live values, top first: `stack[sp] .. stack[STACK_CAP-1]` (10_state.md R102). -/
def State.live (s : State) : List Word := s.stack.drop s.sp

/-- `Ready` (10_state.md R111). -/
abbrev State.Ready (s : State) : Prop := s.err = .success

/-- `Faulted` (10_state.md R111). -/
abbrev State.Faulted (s : State) : Prop := s.err ≠ .success

/-- A program has finished (60_exceptions.md R929). -/
abbrev State.Finished (s : State) : Prop := s.err = .halted

/-- The invariant of the VM core: `sp` stays within the stack (10_state.md R107), the capacity in its
range (00_scope.md R11), both memories canonical and of legal length. -/
abbrev State.VmInv (s : State) : Prop :=
  s.sp ≤ s.stack.length ∧ 1 ≤ s.stack.length ∧ s.stack.length ≤ maxLength ∧
    s.program.wf = true ∧ s.data.wf = true

/-- The invariant of the encoder between commands (10_state.md R120): 63 payload cells, at most 62
pending bytes. -/
abbrev Encoder.Inv (e : Encoder) : Prop := e.payload.length = 63 ∧ e.count ≤ 62

/-- The invariant of the decoder between steps (10_state.md R121): 64 cells, and a frame not yet
complete. -/
abbrev Decoder.Inv (d : Decoder) : Prop :=
  d.buf.length = 64 ∧ (d.idx = 0 ∨ d.idx ≤ decLength d)

/-- The invariant of an `exec` call in progress: instructions are left only while no fault is latched
(10_state.md R107, 60_exceptions.md R910), and the budget has 32 bits. -/
abbrev State.ExecInv (s : State) : Prop :=
  s.budget ≤ maxLength ∧ (s.budget ≠ 0 → s.Ready)

/-- The invariant of the machine. -/
abbrev State.Inv (s : State) : Prop :=
  s.VmInv ∧ s.enc.Inv ∧ s.dec.Inv ∧ s.ExecInv

/-- The bindings fixed at construction (10_state.md R104-R106) and the lengths that go with them are
the same in two states. -/
abbrev SameBindings (s t : State) : Prop :=
  t.program = s.program ∧ t.hook = s.hook ∧ t.data.len = s.data.len ∧
    t.stack.length = s.stack.length

/-- The codec and what it has emitted are the same in two states. -/
abbrev SameCodec (s t : State) : Prop :=
  t.enc = s.enc ∧ t.dec = s.dec ∧ t.frames = s.frames ∧ t.events = s.events

/-- The `exec` call in progress and the host's further calls are the same in two states. -/
abbrev SameHost (s t : State) : Prop :=
  t.budget = s.budget ∧ t.calls = s.calls ∧ t.ret = s.ret

/-- A step does not stop the model. -/
abbrev Steps (s : State) : Prop := ∃ t, step s = .next t

end Sys2Proof.Machine
end

