-- ==== Sys2Proof/Certificates/Slice0/Obligations.lean ====
section
/-! DEFINITION. The statements for the provers. Helper definitions stand under `Sys2Proof.Claims`; a
statement's docstring names the rules it formalises. Results are given by the spec's integer formulas
and whole next states are written out, so that a result is also the instruction's frame: a field that
is not named in an update is unchanged. -/

open Sys2Proof Sys2Proof.Machine

namespace Sys2Proof.Claims

/-! ## Shapes of instructions -/

/-- The four forms of an operation (30_encoding.md R301, R330). -/
structure Forms where
  sel : Nat
  s : Instr
  i8 : BitVec 8 → Instr
  i16 : BitVec 16 → Instr
  i32 : BitVec 32 → Instr

/-- The encodings of the immediate forms of a selector: class bits over the selector, then the raw
immediate little-endian (30_encoding.md R300, R303). -/
def immEncodings (sel : Nat) (i8 : BitVec 8 → Instr) (i16 : BitVec 16 → Instr)
    (i32 : BitVec 32 → Instr) : Prop :=
  (∀ raw, encode (i8 raw) = [BitVec.ofNat 8 (0x40 + sel), raw]) ∧
  (∀ raw, encode (i16 raw) =
    [BitVec.ofNat 8 (0x80 + sel), raw.setWidth 8, (raw >>> 8).setWidth 8]) ∧
  (∀ raw, encode (i32 raw) =
    [BitVec.ofNat 8 (0xC0 + sel), raw.setWidth 8, (raw >>> 8).setWidth 8,
      (raw >>> 16).setWidth 8, (raw >>> 24).setWidth 8])

/-- The encodings of all four forms. -/
def Forms.encoded (f : Forms) : Prop :=
  encode f.s = [BitVec.ofNat 8 f.sel] ∧ immEncodings f.sel f.i8 f.i16 f.i32

/-- A raw immediate as a word: sign- or zero-extended (30_encoding.md R307). -/
def immWord (signed : Bool) {n : Nat} (raw : BitVec n) : Word :=
  if signed then raw.signExtend 32 else raw.setWidth 32

/-- Something about an immediate form, for its three widths: `p i imm` of every instruction `i` whose
extended immediate is `imm`. -/
def Forms.eachImm (f : Forms) (signed : Bool) (p : Instr → Word → Prop) : Prop :=
  (∀ raw, p (f.i8 raw) (immWord signed raw)) ∧ (∀ raw, p (f.i16 raw) (immWord signed raw)) ∧
    (∀ raw, p (f.i32 raw) (immWord signed raw))

/-- The rule of a binary operation, all forms and all exceptions (42_alu.md R450, 43_compare.md R500):
`op x y` with `x` second from the top and `y` the top or the immediate. -/
def binaryRule (f : Forms) (signed : Bool) (op : Word → Word → Word) : Prop :=
  f.encoded ∧ ∀ s : State,
    (∀ y x rest, s.live = y :: x :: rest →
      exec f.s s = .next { s with sp := s.sp + 1, stack := s.stack.set (s.sp + 1) (op x y) }) ∧
    (∀ y, s.live = [y] → exec f.s s = .next { s with sp := s.sp + 1, err := .stackEmpty }) ∧
    (s.live = [] → exec f.s s = .next { s with err := .stackEmpty }) ∧
    f.eachImm signed (fun i imm =>
      (∀ x rest, s.live = x :: rest →
        exec i s = .next { s with stack := s.stack.set s.sp (op x imm) }) ∧
      (s.live = [] → exec i s = .next { s with err := .stackEmpty }))

/-- The rule of a unary operation, all forms and all exceptions (42_alu.md R460). -/
def unaryRule (f : Forms) (op : Word → Word) : Prop :=
  f.encoded ∧ ∀ s : State,
    (∀ x rest, s.live = x :: rest →
      exec f.s s = .next { s with stack := s.stack.set s.sp (op x) }) ∧
    (s.live = [] → exec f.s s = .next { s with err := .stackEmpty }) ∧
    f.eachImm false (fun i imm =>
      (s.sp ≠ 0 →
        exec i s = .next { s with sp := s.sp - 1, stack := s.stack.set (s.sp - 1) (op imm) }) ∧
      (s.sp = 0 → exec i s = .next { s with err := .stackFull }))

/-- The result word of a relation: 1 when it holds, 0 when it does not (43_compare.md R500). -/
def oneOrZero (p : Prop) [Decidable p] : Word := if p then 1 else 0

/-- The unsigned number that `n` data bytes at `a` hold, little-endian (20_memory.md R207). -/
def littleEndian (d : Buffer) (a n : Nat) : Nat :=
  ∑ i ∈ Finset.range n, (Buffer.get d (a + i)).toNat * 256 ^ i

/-- `sext_N` of an `N`-bit number as a word (00_scope.md R14). -/
def signExtended (n : Nat) (v : Nat) : Word := BitVec.ofInt 32 (BitVec.ofNat n v).toInt

/-- The rule of a load of `n` bytes, all forms and all exceptions (44_load_store.md R550): the bounds
check comes before the push. -/
def loadRule (f : Forms) (n : Nat) (ext : Nat → Word) : Prop :=
  f.encoded ∧ ∀ s : State,
    (∀ a rest, s.live = a :: rest →
      (a.toNat + n ≤ s.data.len → exec f.s s =
        .next { s with stack := s.stack.set s.sp (ext (littleEndian s.data a.toNat n)) }) ∧
      (s.data.len < a.toNat + n →
        exec f.s s = .next { s with sp := s.sp + 1, err := .dataAddressOutOfBounds })) ∧
    (s.live = [] → exec f.s s = .next { s with err := .stackEmpty }) ∧
    f.eachImm false (fun i a =>
      (a.toNat + n ≤ s.data.len → s.sp ≠ 0 → exec i s =
        .next { s with sp := s.sp - 1,
                       stack := s.stack.set (s.sp - 1) (ext (littleEndian s.data a.toNat n)) }) ∧
      (a.toNat + n ≤ s.data.len → s.sp = 0 → exec i s = .next { s with err := .stackFull }) ∧
      (s.data.len < a.toNat + n → exec i s = .next { s with err := .dataAddressOutOfBounds }))

/-- `d` is the data memory after the low `n` bytes of `v` were stored at `a`, little-endian: every
address outside `a .. a+n-1` reads as before (20_memory.md R208). -/
def Stored (old d : Buffer) (a n : Nat) (v : Word) : Prop :=
  d.len = old.len ∧ d.wf = true ∧
    ∀ b, Buffer.get d b =
      if a ≤ b ∧ b < a + n then (v >>> (8 * (b - a))).setWidth 8 else Buffer.get old b

/-- The rule of a store of `n` bytes, all forms and all exceptions (44_load_store.md R556). The address
stored to is the popped top word or the immediate. Without `discard` the whole popped word is on top
again. The premise says that the data memory is in the model's canonical form, which every step
keeps. -/
def storeRule (f : Forms) (n : Nat) (discard : Bool) : Prop :=
  f.encoded ∧ ∀ s : State, s.data.wf = true →
    (∀ a v rest, s.live = a :: v :: rest →
      (a.toNat + n ≤ s.data.len → ∃ d, Stored s.data d a.toNat n v ∧
        exec f.s s = .next { s with sp := s.sp + (if discard then 2 else 1), data := d }) ∧
      (s.data.len < a.toNat + n →
        exec f.s s = .next { s with sp := s.sp + 2, err := .dataAddressOutOfBounds })) ∧
    (∀ a, s.live = [a] → exec f.s s = .next { s with sp := s.sp + 1, err := .stackEmpty }) ∧
    (s.live = [] → exec f.s s = .next { s with err := .stackEmpty }) ∧
    f.eachImm false (fun i a =>
      (∀ v rest, s.live = v :: rest →
        (a.toNat + n ≤ s.data.len → ∃ d, Stored s.data d a.toNat n v ∧
          exec i s = .next { s with sp := s.sp + (if discard then 1 else 0), data := d }) ∧
        (s.data.len < a.toNat + n →
          exec i s = .next { s with sp := s.sp + 1, err := .dataAddressOutOfBounds })) ∧
      (s.live = [] → exec i s = .next { s with err := .stackEmpty }))

/-- The loop of `dcopy` on a function from addresses to bytes: ascending, each iteration reading the
current contents (45_block_copy.md R600). -/
def forwardCopy (m : Nat → Byte) (dst src : Nat) : Nat → Nat → Byte
  | 0 => m
  | n + 1 => forwardCopy (Function.update m dst (m src)) (dst + 1) (src + 1) n

/-- The effect of a block copy once its three operands are at hand and `k` cells are popped, over the
given source length, source fault, and contents of the data memory afterwards. The source is checked
first, then the destination; in both faults no byte changes. -/
def copyEffect (i : Instr) (s : State) (k srcLen : Nat) (srcFault : ErrCode)
    (after : Nat → Byte) (len src dst : Word) : Prop :=
  (src.toNat + len.toNat ≤ srcLen → dst.toNat + len.toNat ≤ s.data.len →
    ∃ d : Buffer, d.len = s.data.len ∧ d.wf = true ∧ (∀ b, Buffer.get d b = after b) ∧
      exec i s = .next { s with sp := s.sp + k, data := d }) ∧
  (srcLen < src.toNat + len.toNat →
    exec i s = .next { s with sp := s.sp + k, err := srcFault }) ∧
  (src.toNat + len.toNat ≤ srcLen → s.data.len < dst.toNat + len.toNat →
    exec i s = .next { s with sp := s.sp + k, err := .dataAddressOutOfBounds })

/-- The rule of a block copy, all forms and all exceptions (45_block_copy.md R600, R601): `len` is the
top word or the immediate, `src` the next, `dst` the next. -/
def copyRule (f : Forms) (srcLen : State → Nat) (srcFault : ErrCode)
    (after : State → Nat → Nat → Nat → Nat → Byte) : Prop :=
  f.encoded ∧ ∀ s : State, s.data.wf = true →
    (∀ len src dst rest, s.live = len :: src :: dst :: rest →
      copyEffect f.s s 3 (srcLen s) srcFault (after s dst.toNat src.toNat len.toNat) len src dst) ∧
    (∀ len src, s.live = [len, src] →
      exec f.s s = .next { s with sp := s.sp + 2, err := .stackEmpty }) ∧
    (∀ len, s.live = [len] →
      exec f.s s = .next { s with sp := s.sp + 1, err := .stackEmpty }) ∧
    (s.live = [] → exec f.s s = .next { s with err := .stackEmpty }) ∧
    f.eachImm false (fun i len =>
      (∀ src dst rest, s.live = src :: dst :: rest →
        copyEffect i s 2 (srcLen s) srcFault (after s dst.toNat src.toNat len.toNat) len src dst) ∧
      (∀ src, s.live = [src] →
        exec i s = .next { s with sp := s.sp + 1, err := .stackEmpty }) ∧
      (s.live = [] → exec i s = .next { s with err := .stackEmpty }))

/-- The rule of an unconditional jump that pushes `ip`, all forms and all exceptions (46_control_flow.md
R651, R655): `target ip operand` is where it goes. -/
def linkingRule (f : Forms) (signed : Bool) (target : Word → Word → Word) : Prop :=
  f.encoded ∧ ∀ s : State,
    (∀ t rest, s.live = t :: rest → exec f.s s =
      .next { s with stack := s.stack.set s.sp s.ip, ip := target s.ip t }) ∧
    (s.live = [] → exec f.s s = .next { s with err := .stackEmpty }) ∧
    f.eachImm signed (fun i t =>
      (s.sp ≠ 0 → exec i s =
        .next { s with sp := s.sp - 1, stack := s.stack.set (s.sp - 1) s.ip,
                       ip := target s.ip t }) ∧
      (s.sp = 0 → exec i s = .next { s with err := .stackFull }))

/-- The rule of a conditional jump, all forms and all exceptions (46_control_flow.md R653, R654, R656,
R657): the condition is the top word, the address or delta the next word or the immediate; both are
popped whether or not the jump is taken. -/
def conditionalRule (f : Forms) (signed : Bool) (taken : Word → Prop) [DecidablePred taken]
    (target : Word → Word → Word) : Prop :=
  f.encoded ∧ ∀ s : State,
    (∀ c t rest, s.live = c :: t :: rest → exec f.s s =
      .next { s with sp := s.sp + 2, ip := if taken c then target s.ip t else s.ip }) ∧
    (∀ c, s.live = [c] → exec f.s s = .next { s with sp := s.sp + 1, err := .stackEmpty }) ∧
    (s.live = [] → exec f.s s = .next { s with err := .stackEmpty }) ∧
    f.eachImm signed (fun i t =>
      (∀ c rest, s.live = c :: rest → exec i s =
        .next { s with sp := s.sp + 1, ip := if taken c then target s.ip t else s.ip }) ∧
      (s.live = [] → exec i s = .next { s with err := .stackEmpty }))

/-! ## The instructions, row by row of 30_encoding.md R330 -/

def addForms : Forms := ⟨0x08, .add, .addImm8, .addImm16, .addImm32⟩
def subForms : Forms := ⟨0x09, .sub, .subImm8, .subImm16, .subImm32⟩
def mulForms : Forms := ⟨0x0A, .mul, .mulImm8, .mulImm16, .mulImm32⟩
def andForms : Forms := ⟨0x0B, .and, .andImm8, .andImm16, .andImm32⟩
def orForms : Forms := ⟨0x0C, .or, .orImm8, .orImm16, .orImm32⟩
def xorForms : Forms := ⟨0x0D, .xor, .xorImm8, .xorImm16, .xorImm32⟩
def shlForms : Forms := ⟨0x0E, .shl, .shlImm8, .shlImm16, .shlImm32⟩
def shrUiForms : Forms := ⟨0x0F, .shrUi, .shrUiImm8, .shrUiImm16, .shrUiImm32⟩
def shrSiForms : Forms := ⟨0x10, .shrSi, .shrSiImm8, .shrSiImm16, .shrSiImm32⟩
def notForms : Forms := ⟨0x11, .not, .notImm8, .notImm16, .notImm32⟩
def negForms : Forms := ⟨0x12, .neg, .negImm8, .negImm16, .negImm32⟩
def lnotForms : Forms := ⟨0x13, .lnot, .lnotImm8, .lnotImm16, .lnotImm32⟩
def eqForms : Forms := ⟨0x14, .eq, .eqImm8, .eqImm16, .eqImm32⟩
def neForms : Forms := ⟨0x15, .ne, .neImm8, .neImm16, .neImm32⟩
def ltUiForms : Forms := ⟨0x16, .ltUi, .ltUiImm8, .ltUiImm16, .ltUiImm32⟩
def leUiForms : Forms := ⟨0x17, .leUi, .leUiImm8, .leUiImm16, .leUiImm32⟩
def gtUiForms : Forms := ⟨0x18, .gtUi, .gtUiImm8, .gtUiImm16, .gtUiImm32⟩
def geUiForms : Forms := ⟨0x19, .geUi, .geUiImm8, .geUiImm16, .geUiImm32⟩
def ltSiForms : Forms := ⟨0x1A, .ltSi, .ltSiImm8, .ltSiImm16, .ltSiImm32⟩
def leSiForms : Forms := ⟨0x1B, .leSi, .leSiImm8, .leSiImm16, .leSiImm32⟩
def gtSiForms : Forms := ⟨0x1C, .gtSi, .gtSiImm8, .gtSiImm16, .gtSiImm32⟩
def geSiForms : Forms := ⟨0x1D, .geSi, .geSiImm8, .geSiImm16, .geSiImm32⟩
def loadU8Forms : Forms := ⟨0x20, .loadU8, .loadU8Imm8, .loadU8Imm16, .loadU8Imm32⟩
def loadU16Forms : Forms := ⟨0x21, .loadU16, .loadU16Imm8, .loadU16Imm16, .loadU16Imm32⟩
def loadU32Forms : Forms := ⟨0x22, .loadU32, .loadU32Imm8, .loadU32Imm16, .loadU32Imm32⟩
def loadS8Forms : Forms := ⟨0x23, .loadS8, .loadS8Imm8, .loadS8Imm16, .loadS8Imm32⟩
def loadS16Forms : Forms := ⟨0x24, .loadS16, .loadS16Imm8, .loadS16Imm16, .loadS16Imm32⟩
def storeU8Forms : Forms := ⟨0x25, .storeU8, .storeU8Imm8, .storeU8Imm16, .storeU8Imm32⟩
def storeU16Forms : Forms := ⟨0x26, .storeU16, .storeU16Imm8, .storeU16Imm16, .storeU16Imm32⟩
def storeU32Forms : Forms := ⟨0x27, .storeU32, .storeU32Imm8, .storeU32Imm16, .storeU32Imm32⟩
def storeU8DiscardForms : Forms :=
  ⟨0x28, .storeU8Discard, .storeU8DiscardImm8, .storeU8DiscardImm16, .storeU8DiscardImm32⟩
def storeU16DiscardForms : Forms :=
  ⟨0x29, .storeU16Discard, .storeU16DiscardImm8, .storeU16DiscardImm16, .storeU16DiscardImm32⟩
def storeU32DiscardForms : Forms :=
  ⟨0x2A, .storeU32Discard, .storeU32DiscardImm8, .storeU32DiscardImm16, .storeU32DiscardImm32⟩
def dcopyForms : Forms := ⟨0x2B, .dcopy, .dcopyImm8, .dcopyImm16, .dcopyImm32⟩
def pcopyForms : Forms := ⟨0x2C, .pcopy, .pcopyImm8, .pcopyImm16, .pcopyImm32⟩
def callForms : Forms := ⟨0x30, .call, .callImm8, .callImm16, .callImm32⟩
def jumpAbsForms : Forms := ⟨0x31, .jumpAbs, .jumpAbsImm8, .jumpAbsImm16, .jumpAbsImm32⟩
def jumpAbsIfForms : Forms :=
  ⟨0x32, .jumpAbsIf, .jumpAbsIfImm8, .jumpAbsIfImm16, .jumpAbsIfImm32⟩
def jumpAbsIfNotForms : Forms :=
  ⟨0x33, .jumpAbsIfNot, .jumpAbsIfNotImm8, .jumpAbsIfNotImm16, .jumpAbsIfNotImm32⟩
def jumpRelForms : Forms := ⟨0x34, .jumpRel, .jumpRelImm8, .jumpRelImm16, .jumpRelImm32⟩
def jumpRelIfForms : Forms :=
  ⟨0x35, .jumpRelIf, .jumpRelIfImm8, .jumpRelIfImm16, .jumpRelIfImm32⟩
def jumpRelIfNotForms : Forms :=
  ⟨0x36, .jumpRelIfNot, .jumpRelIfNotImm8, .jumpRelIfNotImm16, .jumpRelIfNotImm32⟩
def syscallForms : Forms := ⟨0x3F, .syscall, .syscallImm8, .syscallImm16, .syscallImm32⟩

/-! ## Classes of instructions -/

/-- The instructions that may write data memory: the stores, the block copies, and syscall (through
its hook) (20_memory.md R203). -/
def mayWriteData : Instr → Bool
  | .storeU8 | .storeU8Imm8 _ | .storeU8Imm16 _ | .storeU8Imm32 _
  | .storeU16 | .storeU16Imm8 _ | .storeU16Imm16 _ | .storeU16Imm32 _
  | .storeU32 | .storeU32Imm8 _ | .storeU32Imm16 _ | .storeU32Imm32 _
  | .storeU8Discard | .storeU8DiscardImm8 _ | .storeU8DiscardImm16 _ | .storeU8DiscardImm32 _
  | .storeU16Discard | .storeU16DiscardImm8 _ | .storeU16DiscardImm16 _ | .storeU16DiscardImm32 _
  | .storeU32Discard | .storeU32DiscardImm8 _ | .storeU32DiscardImm16 _ | .storeU32DiscardImm32 _
  | .dcopy | .dcopyImm8 _ | .dcopyImm16 _ | .dcopyImm32 _
  | .pcopy | .pcopyImm8 _ | .pcopyImm16 _ | .pcopyImm32 _
  | .syscall | .syscallImm8 _ | .syscallImm16 _ | .syscallImm32 _ => true
  | _ => false

/-- The forms of syscall. -/
def isSyscall : Instr → Bool
  | .syscall | .syscallImm8 _ | .syscallImm16 _ | .syscallImm32 _ => true
  | _ => false

/-- The control transfers (46_control_flow.md). -/
def isTransfer : Instr → Bool
  | .call | .callImm8 _ | .callImm16 _ | .callImm32 _
  | .jumpAbs | .jumpAbsImm8 _ | .jumpAbsImm16 _ | .jumpAbsImm32 _
  | .jumpAbsIf | .jumpAbsIfImm8 _ | .jumpAbsIfImm16 _ | .jumpAbsIfImm32 _
  | .jumpAbsIfNot | .jumpAbsIfNotImm8 _ | .jumpAbsIfNotImm16 _ | .jumpAbsIfNotImm32 _
  | .jumpRel | .jumpRelImm8 _ | .jumpRelImm16 _ | .jumpRelImm32 _
  | .jumpRelIf | .jumpRelIfImm8 _ | .jumpRelIfImm16 _ | .jumpRelIfImm32 _
  | .jumpRelIfNot | .jumpRelIfNotImm8 _ | .jumpRelIfNotImm16 _ | .jumpRelIfNotImm32 _ => true
  | _ => false

/-- The instructions that can leave one more word on the stack than they found (70_reset_and_hazards.md
R1013). -/
def growsStack : Instr → Bool
  | .pushU8 _ | .pushU16 _ | .pushU32 _ | .pushS8 _ | .pushS16 _ | .pushS32 _ | .dup
  | .callImm8 _ | .callImm16 _ | .callImm32 _
  | .jumpRelImm8 _ | .jumpRelImm16 _ | .jumpRelImm32 _
  | .notImm8 _ | .notImm16 _ | .notImm32 _ | .negImm8 _ | .negImm16 _ | .negImm32 _
  | .lnotImm8 _ | .lnotImm16 _ | .lnotImm32 _
  | .loadU8Imm8 _ | .loadU8Imm16 _ | .loadU8Imm32 _
  | .loadU16Imm8 _ | .loadU16Imm16 _ | .loadU16Imm32 _
  | .loadU32Imm8 _ | .loadU32Imm16 _ | .loadU32Imm32 _
  | .loadS8Imm8 _ | .loadS8Imm16 _ | .loadS8Imm32 _
  | .loadS16Imm8 _ | .loadS16Imm16 _ | .loadS16Imm32 _ => true
  | _ => false

/-- The commands of the encoder other than its initialisation (48_frame_codec.md). -/
def isEncoderCommand : HostCall → Bool
  | .appendU8 _ | .appendBuf _ | .setFinal _ | .setDelimited _ | .write | .writeZero => true
  | _ => false

/-- A host call that may clear or set up the VM's registers: `error_ack` and `reset`. -/
def writesRegisters : HostCall → Bool
  | .errorAck | .reset => true
  | _ => false

/-! ## The codec -/

/-- The opcode bytes that raise `BadOpcode`, as 30_encoding.md R332 lists them: those of a reserved
selector in every class, and the illegal forms. -/
def reservedOpcode (opc : Byte) : Bool :=
  [0x06, 0x07, 0x1E, 0x1F, 0x2D, 0x2E, 0x2F, 0x37, 0x38, 0x39, 0x3A, 0x3B, 0x3C, 0x3D, 0x3E].contains
      (opc.toNat % 64) ||
    [0x01, 0x02, 0x40, 0x43, 0x44, 0x45, 0x80, 0x83, 0x84, 0x85, 0xC0, 0xC3, 0xC4, 0xC5].contains
      opc.toNat

/-- An opcode byte that raises `BadOpcode` (30_encoding.md R317): its immediate bytes are fetched and
bounds-checked first, and `ip` moves past them; nothing is popped and nothing else written. -/
def RaisesBadOpcode (opc : Byte) : Prop :=
  ∀ s : State, s.budget ≠ 0 → s.Ready → Buffer.get s.program s.ip.toNat = opc →
    (s.ip.toNat + 1 + immLength opc ≤ s.program.len →
      step s = .next { s with ip := BitVec.ofNat 32 (s.ip.toNat + 1 + immLength opc),
                              err := .badOpcode, budget := 0, ret := .err .badOpcode }) ∧
    (s.program.len < s.ip.toNat + 1 + immLength opc →
      step s = .next { s with err := .programAddressOutOfBounds, budget := 0,
                              ret := .err .programAddressOutOfBounds })

/-- The effect of a `dcopy` whose ranges are within data memory, overlapping or not (45_block_copy.md
R602): downward as from a snapshot of the source, upward into its own source the first `dst - src`
source bytes repeated; outside the destination nothing changes. -/
def overlapEffect (i : Instr) (s : State) (len src dst : Word) : Prop :=
  ∃ t, exec i s = .next t ∧
    (∀ b, (b < dst.toNat ∨ dst.toNat + len.toNat ≤ b) →
      Buffer.get t.data b = Buffer.get s.data b) ∧
    (dst.toNat ≤ src.toNat → ∀ j, j < len.toNat →
      Buffer.get t.data (dst.toNat + j) = Buffer.get s.data (src.toNat + j)) ∧
    (src.toNat < dst.toNat → ∀ j, j < len.toNat →
      Buffer.get t.data (dst.toNat + j) =
        Buffer.get s.data (src.toNat + j % (dst.toNat - src.toNat)))

/-- `i` leaves the address of the next instruction on top of the values `below`, and a `return` from any
state with that stack comes back to it with `below` live (46_control_flow.md R658). -/
def ReturnsTo (i : Instr) (s : State) (below : List Word) : Prop :=
  ∃ t, exec i s = .next t ∧ t.live = s.ip :: below ∧
    ∀ u : State, u.live = t.live → ∃ v, exec .jumpAbs u = .next v ∧ v.ip = s.ip ∧ v.live = below

/-- Every form of an instruction that pushes `ip` returns. -/
def returnRule (f : Forms) (signed : Bool) (s : State) : Prop :=
  (∀ x rest, s.live = x :: rest → ReturnsTo f.s s rest) ∧
    (s.sp ≠ 0 → s.sp ≤ s.stack.length →
      f.eachImm signed (fun i _ => ReturnsTo i s s.live))

/-- The header byte as a number (30_encoding.md R350). -/
def headerByte (final delim : Bool) (count : Nat) : Byte :=
  BitVec.ofNat 8 ((if final then 128 else 0) + (if delim then 64 else 0) + count)

/-- A frame: a header and exactly the payload bytes it declares (30_encoding.md R351). -/
def IsFrame (f : List Byte) : Prop :=
  ∃ h payload, f = h :: payload ∧ payload.length = h.toNat % 64

/-- The callbacks of a frame, in order (48_frame_codec.md R772). -/
def eventsOf (final delim : Bool) (payload : List Byte) : List DecEvent :=
  (if delim then [.delimiter] else []) ++ (if payload = [] then [] else [.data payload]) ++
    (if final then [.final] else [])

/-- The payload bytes of a sequence of callbacks. -/
def payloadOf : List DecEvent → List Byte
  | [] => []
  | .data p :: rest => p ++ payloadOf rest
  | _ :: rest => payloadOf rest

/-- Successive calls of `read_frame_step`, each read delivering the next chunk; none where a step is
refused. -/
def feed : List (List Byte) → State → Option State
  | [], s => some s
  | chunk :: rest, s =>
    match readFrameStep chunk s with
    | .next t => feed rest t
    | _ => none

/-- The host has control and its next call is `c`. -/
abbrev Calling (s : State) (c : HostCall) (rest : List HostCall) : Prop :=
  s.budget = 0 ∧ s.calls = c :: rest

end Sys2Proof.Claims

open Sys2Proof.Claims

/-! ## Reset, the error latch and `exec` -/

/-- 10_state.md R125: the state after construction (for every choice of the parameters), after `reset`
and after `error_ack`. -/
def Obligations.InitialAndResetValues : Prop :=
  (∀ p : Params,
    let s := State.construct p
    s.ip = 0 ∧ s.sp = p.stackCap ∧ s.stack.length = p.stackCap ∧ (∀ v ∈ s.stack, v = 0) ∧
      s.err = .success ∧ s.program = p.program ∧ s.data = p.data ∧ s.hook = p.hook ∧
      s.enc.count = 0 ∧ s.enc.final = false ∧ s.enc.delim = false ∧ s.dec.idx = 0) ∧
  (∀ s : State,
    let t := resetVm s
    t.ip = 0 ∧ t.sp = s.stack.length ∧ t.stack.length = s.stack.length ∧ (∀ v ∈ t.stack, v = 0) ∧
      t.err = .success ∧ t.program = s.program ∧ t.data = s.data ∧ t.hook = s.hook ∧
      t.enc = s.enc ∧ t.dec = s.dec) ∧
  (∀ s : State, errorAck s = { s with err := .success })

/-- 60_exceptions.md R913: the host's `reset()` is one step in `Ready` and in `Faulted`; it rewinds `ip`,
empties and clears the stack and clears `err`, and leaves all else. -/
def Obligations.ResetReinitialisesTheCore : Prop :=
  ∀ s rest, Calling s .reset rest →
    step s = .next { s with calls := rest, ip := 0, sp := s.stack.length,
                            stack := List.replicate s.stack.length 0, err := .success,
                            ret := .nothing }

/-- 60_exceptions.md R912: `error_ack()` clears `err` and changes nothing else of the machine. -/
def Obligations.ErrorAckClearsOnlyErr : Prop :=
  ∀ s rest, Calling s .errorAck rest →
    step s = .next { s with calls := rest, err := .success, ret := .nothing }

/-- 60_exceptions.md R911: in `Faulted`, `exec` returns the latched error and `ip` does not advance. -/
def Obligations.ExecReturnsLatchedError : Prop :=
  ∀ s count rest, Calling s (.exec count) rest → s.Faulted →
    step s = .next { s with calls := rest, ret := .err s.err }

/-- 60_exceptions.md R910, turn by turn: how `exec(count)` begins, and what one turn of its loop adds to
the instruction it runs. -/
def Obligations.ExecRunsUnderItsBudget : Prop :=
  (∀ s count rest, Calling s (.exec count) rest → s.Ready →
    (count = 0 → step s = .next { s with calls := rest, ret := .err .success }) ∧
    (count ≠ 0 → step s = .next { s with calls := rest, budget := count.toNat })) ∧
  (∀ s t, s.budget ≠ 0 → s.Ready → runInstruction s = .next t →
    (t.Faulted → step s = .next { t with budget := 0, ret := .err t.err }) ∧
    (t.Ready → s.budget = 1 → step s = .next { t with budget := 0, ret := .err .success }) ∧
    (t.Ready → s.budget ≠ 1 → step s = .next { t with budget := s.budget - 1 }))

/-- 60_exceptions.md R910, over a whole call: within as many steps as its budget, an `exec` call returns
to the host with the code in `err`, no further host call being taken meanwhile, unless its hook stops
it: by never returning, by breaking a duty or by raising `Success` (47_system.md R710). No other stop
is possible. -/
def Obligations.ExecReturnsWithinCount : Prop :=
  ∀ s : State, s.budget ≠ 0 → s.Ready →
    ∃ k, k ≤ s.budget ∧
      match Sys2Proof.core.run k s with
      | .next t => t.budget = 0 ∧ t.calls = s.calls ∧ t.ret = .err t.err
      | .fault .hookNeverReturns => True
      | .refused (.hookBreaksDuty _) => True
      | .refused .hookRaisesSuccess => True
      | _ => False

/-- 60_exceptions.md R914, 10_state.md R107: from `Faulted`, every step but `error_ack` and `reset` leaves
`err`, `ip`, `sp` and the stack as they are. That no codec callback commands the VM inside a codec step
is the model's choice (log 18). -/
def Obligations.FaultedUntilAcknowledged : Prop :=
  ∀ s t, s.Faulted → step s = .next t →
    (∀ c rest, Calling s c rest → writesRegisters c = false) →
    t.err = s.err ∧ t.ip = s.ip ∧ t.sp = s.sp ∧ t.stack = s.stack

/-- 10_state.md R107 (as 90_conflicts.md C3 reads it), R110; 20_memory.md R222; 60_exceptions.md R925: while
the host has control, no call but `reset` writes `ip`, `sp` or a stack cell, none but `error_ack` and
`reset` writes `err`, none but a data write changes a data byte, and none writes the program, a length
or the hook. A data write stores its one byte, an inspection returns the value it asks for; an address
or index that names nothing is refused, which is the model's reading (log 14); that no codec callback
commands the VM inside a codec step is its choice (log 18). -/
def Obligations.HostCallsKeepRegisters : Prop :=
  (∀ s t, s.budget = 0 → step s = .next t →
    SameBindings s t ∧
    ((∀ rest, s.calls ≠ .reset :: rest) → t.ip = s.ip ∧ t.sp = s.sp ∧ t.stack = s.stack) ∧
    ((∀ rest, s.calls ≠ .reset :: rest ∧ s.calls ≠ .errorAck :: rest) → t.err = s.err) ∧
    ((∀ a b rest, s.calls ≠ .writeData a b :: rest) → t.data = s.data)) ∧
  (∀ s a b rest, Calling s (.writeData a b) rest → s.data.wf = true →
    (a < s.data.len → ∃ d : Buffer, d.len = s.data.len ∧ d.wf = true ∧
      (∀ c, Buffer.get d c = if c = a then b else Buffer.get s.data c) ∧
      step s = .next { s with calls := rest, data := d, ret := .nothing }) ∧
    (s.data.len ≤ a → step s = .refused .hostWritesOutsideData)) ∧
  (∀ s rest,
    (Calling s (.inspect .ip) rest → step s = .next { s with calls := rest, ret := .word s.ip }) ∧
    (Calling s (.inspect .sp) rest → step s = .next { s with calls := rest, ret := .slots s.sp }) ∧
    (Calling s (.inspect .err) rest → step s = .next { s with calls := rest, ret := .err s.err }) ∧
    (∀ i, Calling s (.inspect (.cell i)) rest →
      (∀ v, s.stack[i]? = some v → step s = .next { s with calls := rest, ret := .word v }) ∧
      (s.stack.length ≤ i → step s = .refused .hostReadsNoCell)) ∧
    (∀ a, Calling s (.inspect (.dataByte a)) rest →
      (a < s.data.len → step s =
        .next { s with calls := rest, ret := .byte (Buffer.get s.data a) }) ∧
      (s.data.len ≤ a → step s = .refused .hostReadsOutsideData)))

/-! ## Fetch, decode and the instruction cycle -/

/-- 30_encoding.md R319: a step runs the decoded instruction. When an `exec` call is running, the bytes
fetched at `ip` decode to `i`, the step is `exec` of `i` with `ip` at the next instruction, closed as
`exec`'s loop closes every instruction (R910). -/
def Obligations.StepRunsDecodedInstruction : Prop :=
  ∀ (s : State) (bytes : List Byte) (i : Instr) (after : List Byte),
    s.budget ≠ 0 → s.Ready → fetch s = some bytes → decode bytes = .instr i after →
    step s = closeOutcome (exec i { s with ip := BitVec.ofNat 32 (s.ip.toNat + bytes.length) })

/-- 30_encoding.md R315, R316, R318: an instruction whose encoding stands at `ip` inside program memory is
the one the step runs, for every instruction and every operand. -/
def Obligations.EncodedInstructionRuns : Prop :=
  ∀ (s : State) (i : Instr), s.budget ≠ 0 → s.Ready →
    s.ip.toNat + (encode i).length ≤ s.program.len →
    (∀ j b, (encode i)[j]? = some b → Buffer.get s.program (s.ip.toNat + j) = b) →
    step s = closeOutcome (exec i
      { s with ip := BitVec.ofNat 32 (s.ip.toNat + (encode i).length) })

/-- 30_encoding.md R315, R316: a fetch beyond the program raises `ProgramAddressOutOfBounds`, for the
opcode byte and for the immediate bytes its class asks for; `ip` stays and nothing else of the VM
changes. -/
def Obligations.FetchFaultKeepsIp : Prop :=
  ∀ s : State, s.budget ≠ 0 → s.Ready →
    (s.program.len < s.ip.toNat + 1 ∨
      s.program.len < s.ip.toNat + 1 +
        immLength (Buffer.get s.program s.ip.toNat)) →
    step s = .next { s with err := .programAddressOutOfBounds, budget := 0,
                            ret := .err .programAddressOutOfBounds }

/-- 30_encoding.md R317, R332: exactly 74 of the 256 opcode bytes, the reserved selectors and the illegal
forms, raise `BadOpcode`. -/
def Obligations.BadOpcodeAfterCommit : Prop :=
  (∀ opc : Byte, reservedOpcode opc = true → RaisesBadOpcode opc) ∧
  ((List.range 256).filter fun n => reservedOpcode (BitVec.ofNat 8 n)).length = 74 ∧
  ∀ (opc : Byte) (rest : List Byte), reservedOpcode opc = false → immLength opc ≤ rest.length →
    ∃ i after, decode (opc :: rest) = .instr i after

/-- 30_encoding.md R333: every byte string that starts with an opcode byte and holds its immediate bytes
either is an instruction and what follows it, or starts with one of the 74 bytes, never both. -/
def Obligations.ExactlyLegalOpcodesDecode : Prop :=
  ∀ (opc : Byte) (rest : List Byte), immLength opc ≤ rest.length →
    ((∃ i after, decode (opc :: rest) = .instr i after ∧
        opc :: rest = encode i ++ after ∧ (encode i).length = 1 + immLength opc) ↔
      reservedOpcode opc = false) ∧
    ((∃ r, decode (opc :: rest) = .rejected r) ↔ reservedOpcode opc = true)

/-- 30_encoding.md R301-R304, R334: for every instruction, with every operand, decoding its encoding gives
it back and leaves the bytes after it. -/
def Obligations.DecodeEncodeRoundTrip : Prop :=
  ∀ (i : Instr) (rest : List Byte), decode (encode i ++ rest) = .instr i rest

/-- The other direction: bytes that decode to an instruction are its encoding and the bytes after it, so
no bit of an encoding is dropped and no instruction has two encodings. -/
def Obligations.DecodedBytesAreTheEncoding : Prop :=
  ∀ (bytes : List Byte) (i : Instr) (rest : List Byte),
    decode bytes = .instr i rest → bytes = encode i ++ rest

/-- Words written out from 30_encoding.md R303 and R334, one of each family, decode to what they stand
for. -/
def Obligations.SampleEncodingsDecode : Prop :=
  decode [0x00] = .instr .halt [] ∧
  decode [0x82, 0xFE, 0xFF] = .instr (.pushS16 0xFFFE) [] ∧
  decode [0x88, 0x04, 0x00] = .instr (.addImm16 4) [] ∧
  decode [0x5B, 0x7F] = .instr (.leSiImm8 0x7F) [] ∧
  decode [0xC1, 0x78, 0x56, 0x34, 0x12] = .instr (.pushU32 0x12345678) [] ∧
  decode [0x6A, 0x00, 0x03] = .instr (.storeU32DiscardImm8 0) [0x03] ∧
  decode [0x6C, 0x03] = .instr (.pcopyImm8 3) [] ∧
  decode [0xF4, 0x00, 0x00, 0x00, 0x80] = .instr (.jumpRelImm32 0x80000000) [] ∧
  decode [0x3F] = .instr .syscall [] ∧
  decode [0xC6, 1, 2, 3, 4] = .rejected (.reservedSelector 6) ∧
  decode [0x40, 0x00] = .rejected (.illegalForm 0)

/-! ## The stack -/

/-- 41_stack.md R400: `Push`. -/
def Obligations.PushStoresBelowTheTop : Prop :=
  ∀ (v : Word) (s : State),
    (s.sp = 0 → push v s = .raised { s with err := .stackFull }) ∧
    (s.sp ≠ 0 → push v s =
      .ok () { s with sp := s.sp - 1, stack := s.stack.set (s.sp - 1) v }) ∧
    (s.sp ≠ 0 → s.sp ≤ s.stack.length →
      ∃ t, push v s = .ok () t ∧ t.live = v :: s.live)

/-- 41_stack.md R401, R402: `Pop` returns the top value and leaves every cell as it was; on an empty stack
it raises `StackEmpty` and neither `sp` nor a cell changes. -/
def Obligations.PopReturnsTheTop : Prop :=
  ∀ s : State,
    (∀ v rest, s.live = v :: rest →
      pop s = .ok v { s with sp := s.sp + 1 } ∧ ({ s with sp := s.sp + 1 } : State).live = rest) ∧
    (s.sp = s.stack.length → pop s = .raised { s with err := .stackEmpty })

/-- 41_stack.md R405, R406: the pushes: encodings (form S raises `BadOpcode`), the zero- or sign-extended
immediate on top, and `StackFull`. -/
def Obligations.PushImmediates : Prop :=
  immEncodings 0x01 .pushU8 .pushU16 .pushU32 ∧ immEncodings 0x02 .pushS8 .pushS16 .pushS32 ∧
  RaisesBadOpcode 0x01 ∧ RaisesBadOpcode 0x02 ∧
  ∀ s : State,
    (s.sp = 0 →
      (∀ raw, exec (.pushU8 raw) s = .next { s with err := .stackFull }) ∧
      (∀ raw, exec (.pushU16 raw) s = .next { s with err := .stackFull }) ∧
      (∀ raw, exec (.pushU32 raw) s = .next { s with err := .stackFull }) ∧
      (∀ raw, exec (.pushS8 raw) s = .next { s with err := .stackFull }) ∧
      (∀ raw, exec (.pushS16 raw) s = .next { s with err := .stackFull }) ∧
      (∀ raw, exec (.pushS32 raw) s = .next { s with err := .stackFull })) ∧
    (s.sp ≠ 0 →
      (∀ raw, exec (.pushU8 raw) s = .next
        { s with sp := s.sp - 1, stack := s.stack.set (s.sp - 1) (BitVec.ofNat 32 raw.toNat) }) ∧
      (∀ raw, exec (.pushU16 raw) s = .next
        { s with sp := s.sp - 1, stack := s.stack.set (s.sp - 1) (BitVec.ofNat 32 raw.toNat) }) ∧
      (∀ raw, exec (.pushU32 raw) s = .next
        { s with sp := s.sp - 1, stack := s.stack.set (s.sp - 1) raw }) ∧
      (∀ raw, exec (.pushS8 raw) s = .next
        { s with sp := s.sp - 1, stack := s.stack.set (s.sp - 1) (BitVec.ofInt 32 raw.toInt) }) ∧
      (∀ raw, exec (.pushS16 raw) s = .next
        { s with sp := s.sp - 1, stack := s.stack.set (s.sp - 1) (BitVec.ofInt 32 raw.toInt) }) ∧
      (∀ raw, exec (.pushS32 raw) s = .next
        { s with sp := s.sp - 1, stack := s.stack.set (s.sp - 1) raw }))

/-- 41_stack.md R407-R409: drop, dup and swap, with their exceptions and what those leave; their immediate
forms raise `BadOpcode`. -/
def Obligations.DropDupSwap : Prop :=
  encode .drop = [0x03] ∧ encode .dup = [0x04] ∧ encode .swap = [0x05] ∧
  (∀ opc ∈ [0x43, 0x83, 0xC3, 0x44, 0x84, 0xC4, 0x45, 0x85, 0xC5], RaisesBadOpcode opc) ∧
  ∀ s : State,
    (∀ v rest, s.live = v :: rest → exec .drop s = .next { s with sp := s.sp + 1 }) ∧
    (s.live = [] → exec .drop s = .next { s with err := .stackEmpty }) ∧
    (∀ x rest, s.live = x :: rest →
      (s.sp ≠ 0 → exec .dup s =
        .next { s with sp := s.sp - 1, stack := s.stack.set (s.sp - 1) x }) ∧
      (s.sp = 0 → exec .dup s = .next { s with err := .stackFull })) ∧
    (s.live = [] → exec .dup s = .next { s with err := .stackEmpty }) ∧
    (∀ y x rest, s.live = y :: x :: rest → exec .swap s =
      .next { s with stack := (s.stack.set (s.sp + 1) y).set s.sp x }) ∧
    (∀ y, s.live = [y] → exec .swap s = .next { s with sp := s.sp + 1, err := .stackEmpty }) ∧
    (s.live = [] → exec .swap s = .next { s with err := .stackEmpty })

/-! ## Arithmetic, bitwise operations, shifts -/

/-- 42_alu.md R450-R453: add, sub and mul, modulo 2^32. -/
def Obligations.ArithmeticWraps : Prop :=
  binaryRule addForms false (fun x y => BitVec.ofNat 32 (x.toNat + y.toNat)) ∧
  binaryRule subForms false (fun x y => BitVec.ofInt 32 ((x.toNat : Int) - y.toNat)) ∧
  binaryRule mulForms false (fun x y => BitVec.ofNat 32 (x.toNat * y.toNat))

/-- 42_alu.md R450, R454-R456: and, or, xor; the results bit by bit. -/
def Obligations.BitwiseOperations : Prop :=
  binaryRule andForms false (fun x y => x &&& y) ∧ binaryRule orForms false (fun x y => x ||| y) ∧
  binaryRule xorForms false (fun x y => x ^^^ y) ∧
  ∀ (x y : Word) (i : Nat), (x &&& y).getLsbD i = (x.getLsbD i && y.getLsbD i) ∧
    (x ||| y).getLsbD i = (x.getLsbD i || y.getLsbD i) ∧
    (x ^^^ y).getLsbD i = (x.getLsbD i != y.getLsbD i)

/-- 42_alu.md R450, R457-R459: the shifts; the amount is the whole unsigned word, and 32 or more gives 0 or
the sign fill; the arithmetic shift rounds toward minus infinity. -/
def Obligations.ShiftsByTheWholeAmount : Prop :=
  binaryRule shlForms false (fun x y =>
    if 32 ≤ y.toNat then 0 else BitVec.ofNat 32 (x.toNat * 2 ^ y.toNat)) ∧
  binaryRule shrUiForms false (fun x y =>
    if 32 ≤ y.toNat then 0 else BitVec.ofNat 32 (x.toNat / 2 ^ y.toNat)) ∧
  binaryRule shrSiForms false (fun x y =>
    if 32 ≤ y.toNat then (if x.toInt < 0 then 0xFFFFFFFF else 0)
    else BitVec.ofInt 32 (x.toInt.fdiv (2 ^ y.toNat)))

/-- 42_alu.md R460-R463: not, neg and lnot. -/
def Obligations.UnaryOperations : Prop :=
  unaryRule notForms (fun x => BitVec.ofNat 32 (2 ^ 32 - 1 - x.toNat)) ∧
  unaryRule negForms (fun x => BitVec.ofInt 32 (0 - (x.toNat : Int))) ∧
  unaryRule lnotForms (fun x => if x.toNat = 0 then 1 else 0)

/-! ## Comparisons -/

/-- 43_compare.md R500-R506: equality and the unsigned comparisons, their immediates zero-extended. -/
def Obligations.UnsignedComparisons : Prop :=
  binaryRule eqForms false (fun x y => oneOrZero (x.toNat = y.toNat)) ∧
  binaryRule neForms false (fun x y => oneOrZero (x.toNat ≠ y.toNat)) ∧
  binaryRule ltUiForms false (fun x y => oneOrZero (x.toNat < y.toNat)) ∧
  binaryRule leUiForms false (fun x y => oneOrZero (x.toNat ≤ y.toNat)) ∧
  binaryRule gtUiForms false (fun x y => oneOrZero (x.toNat > y.toNat)) ∧
  binaryRule geUiForms false (fun x y => oneOrZero (x.toNat ≥ y.toNat))

/-- 43_compare.md R500, R507-R510: the signed comparisons, their immediates sign-extended. -/
def Obligations.SignedComparisons : Prop :=
  binaryRule ltSiForms true (fun x y => oneOrZero (x.toInt < y.toInt)) ∧
  binaryRule leSiForms true (fun x y => oneOrZero (x.toInt ≤ y.toInt)) ∧
  binaryRule gtSiForms true (fun x y => oneOrZero (x.toInt > y.toInt)) ∧
  binaryRule geSiForms true (fun x y => oneOrZero (x.toInt ≥ y.toInt))

/-! ## Data memory -/

/-- 20_memory.md R207, R208, R210: a read is the little-endian number its bytes hold and changes nothing; a
write stores the low bytes, low byte first, and nothing else; both raise `DataAddressOutOfBounds`
before any byte is touched. After a write every read inside it, of the same width or a narrower one,
gives the word's bytes from there on, and every read that does not overlap it reads as before. -/
def Obligations.MemoryReadAfterWrite : Prop :=
  (∀ (s : State) (a : Word) (w : Width),
    (a.toNat + widthBytes w ≤ s.data.len →
      memRead a w s = .ok (BitVec.ofNat 32 (littleEndian s.data a.toNat (widthBytes w))) s) ∧
    (s.data.len < a.toNat + widthBytes w →
      memRead a w s = .raised { s with err := .dataAddressOutOfBounds })) ∧
  (∀ (s : State) (a v : Word) (w : Width), s.data.len < a.toNat + widthBytes w →
    memWrite a w v s = .raised { s with err := .dataAddressOutOfBounds }) ∧
  (∀ (s : State) (a v : Word) (w : Width), s.data.wf = true →
    a.toNat + widthBytes w ≤ s.data.len →
    ∃ d, Stored s.data d a.toNat (widthBytes w) v ∧ memWrite a w v s = .ok () { s with data := d } ∧
      (∀ (b : Word) (w' : Width), a.toNat ≤ b.toNat →
        b.toNat + widthBytes w' ≤ a.toNat + widthBytes w →
        memRead b w' { s with data := d } = .ok (BitVec.ofNat 32
          (v.toNat / 256 ^ (b.toNat - a.toNat) % 256 ^ widthBytes w')) { s with data := d }) ∧
      (∀ (b : Word) (w' : Width),
        (b.toNat + widthBytes w' ≤ a.toNat ∨ a.toNat + widthBytes w ≤ b.toNat) →
        ∀ u, memRead b w' s = .ok u s →
          memRead b w' { s with data := d } = .ok u { s with data := d }))

/-- 44_load_store.md R549-R555: the loads. -/
def Obligations.LoadsReadDataMemory : Prop :=
  loadRule loadU8Forms 1 (BitVec.ofNat 32) ∧ loadRule loadU16Forms 2 (BitVec.ofNat 32) ∧
  loadRule loadU32Forms 4 (BitVec.ofNat 32) ∧ loadRule loadS8Forms 1 (signExtended 8) ∧
  loadRule loadS16Forms 2 (signExtended 16)

/-- 44_load_store.md R549, R556-R562: the stores, pushing the value back or discarding it. -/
def Obligations.StoresWriteDataMemory : Prop :=
  storeRule storeU8Forms 1 false ∧ storeRule storeU16Forms 2 false ∧
  storeRule storeU32Forms 4 false ∧ storeRule storeU8DiscardForms 1 true ∧
  storeRule storeU16DiscardForms 2 true ∧ storeRule storeU32DiscardForms 4 true

/-- 45_block_copy.md R600: dcopy, a byte-by-byte forward copy within data memory. -/
def Obligations.DcopyCopiesForward : Prop :=
  copyRule dcopyForms (fun s => s.data.len) .dataAddressOutOfBounds
    (fun s dst src n => forwardCopy (Buffer.get s.data) dst src n)

/-- 45_block_copy.md R601: pcopy, from program memory to data memory; every other data byte reads as
before. -/
def Obligations.PcopyCopiesProgramBytes : Prop :=
  copyRule pcopyForms (fun s => s.program.len) .programAddressOutOfBounds
    (fun s dst src n b =>
      if dst ≤ b ∧ b < dst + n then Buffer.get s.program (src + (b - dst))
      else Buffer.get s.data b)

/-- 45_block_copy.md R602: overlapping dcopy, in every form. Downward it equals a copy from a snapshot;
upward into its own source it repeats the first `dst - src` source bytes. -/
def Obligations.OverlappingDcopy : Prop :=
  ∀ s : State, s.data.wf = true →
    (∀ len src dst rest, s.live = len :: src :: dst :: rest →
      src.toNat + len.toNat ≤ s.data.len → dst.toNat + len.toNat ≤ s.data.len →
      overlapEffect dcopyForms.s s len src dst) ∧
    dcopyForms.eachImm false (fun i len => ∀ src dst rest, s.live = src :: dst :: rest →
      src.toNat + len.toNat ≤ s.data.len → dst.toNat + len.toNat ≤ s.data.len →
      overlapEffect i s len src dst)

/-! ## Control flow -/

/-- 46_control_flow.md R651, R655: call and jump-rel push the address of the next instruction, which `ip`
holds while they execute (R650), and go to the target or to `ip + delta`. -/
def Obligations.LinkingJumps : Prop :=
  linkingRule callForms false (fun _ target => target) ∧
  linkingRule jumpRelForms true (fun ip delta => BitVec.ofInt 32 (ip.toNat + delta.toInt))

/-- 46_control_flow.md R652: jump-abs (return, goto). -/
def Obligations.AbsoluteJump : Prop :=
  jumpAbsForms.encoded ∧ ∀ s : State,
    (∀ t rest, s.live = t :: rest → exec .jumpAbs s = .next { s with sp := s.sp + 1, ip := t }) ∧
    (s.live = [] → exec .jumpAbs s = .next { s with err := .stackEmpty }) ∧
    jumpAbsForms.eachImm false (fun i t => exec i s = .next { s with ip := t })

/-- 46_control_flow.md R653, R654, R656, R657: the conditional jumps, absolute and relative. -/
def Obligations.ConditionalJumps : Prop :=
  conditionalRule jumpAbsIfForms false (fun c => c.toNat ≠ 0) (fun _ target => target) ∧
  conditionalRule jumpAbsIfNotForms false (fun c => c.toNat = 0) (fun _ target => target) ∧
  conditionalRule jumpRelIfForms true (fun c => c.toNat ≠ 0)
    (fun ip delta => BitVec.ofInt 32 (ip.toNat + delta.toInt)) ∧
  conditionalRule jumpRelIfNotForms true (fun c => c.toNat = 0)
    (fun ip delta => BitVec.ofInt 32 (ip.toNat + delta.toInt))

/-- 46_control_flow.md R658: a subroutine that leaves the stack as it found it returns to its caller:
`return` after `call`, and after `jump-rel`, in every form, comes back to the next instruction with the
caller's values live. -/
def Obligations.ReturnComesBack : Prop :=
  ∀ s : State, returnRule callForms false s ∧ returnRule jumpRelForms true s

/-! ## System instructions -/

/-- 47_system.md R700: halt raises `Halted` after the fetch commit; the step ends the `exec` call. -/
def Obligations.HaltStopsTheProgram : Prop :=
  encode .halt = [0x00] ∧ (∀ opc ∈ [0x40, 0x80, 0xC0], RaisesBadOpcode opc) ∧
  (∀ s : State, exec .halt s = .next { s with err := .halted }) ∧
  ∀ s : State, s.budget ≠ 0 → s.Ready → s.ip.toNat < s.program.len →
    Buffer.get s.program s.ip.toNat = 0 →
    step s = .next { s with ip := BitVec.ofNat 32 (s.ip.toNat + 1), err := .halted, budget := 0,
                            ret := .err .halted }

/-- 47_system.md R705: syscall: the call number is popped first, without a hook it raises `BadSyscall`, and
with one the hook runs from the state behind the call number: a run the state holds, or the free run
of `Config.hookRun` (log 1). -/
def Obligations.SyscallCallsTheHook : Prop :=
  syscallForms.encoded ∧ ∀ s : State,
    (s.live = [] → exec .syscall s = .next { s with err := .stackEmpty }) ∧
    (∀ n rest, s.live = n :: rest →
      (s.hook = none → exec .syscall s = .next { s with sp := s.sp + 1, err := .badSyscall }) ∧
      (∀ h, s.hook = some h →
        (∀ run runs, s.hookRuns = run :: runs → exec .syscall s = runHook run
          { s with sp := s.sp + 1, hookRuns := runs, hookCount := s.hookCount + 1 }) ∧
        (s.hookRuns = [] → exec .syscall s =
          runHook (Config.hookRun h s.hookCount n
              { ip := s.ip, sp := s.sp + 1, stack := s.stack, program := s.program,
                data := s.data })
            { s with sp := s.sp + 1, hookCount := s.hookCount + 1 }))) ∧
    syscallForms.eachImm false (fun i n =>
      (s.hook = none → exec i s = .next { s with err := .badSyscall }) ∧
      (∀ h, s.hook = some h →
        (∀ run runs, s.hookRuns = run :: runs → exec i s = runHook run
          { s with hookRuns := runs, hookCount := s.hookCount + 1 }) ∧
        (s.hookRuns = [] → exec i s =
          runHook (Config.hookRun h s.hookCount n
              { ip := s.ip, sp := s.sp, stack := s.stack, program := s.program, data := s.data })
            { s with hookCount := s.hookCount + 1 })))

/-- 47_system.md R707-R709: a syscall whose hook keeps its duties and comes to an end completes, in every
form; a hook that does nothing leaves the VM as it found it, past the call number. -/
def Obligations.SyscallWithDutifulHookCompletes : Prop :=
  ∀ (s : State) (h : Nat) (run : List HookAct) (runs : List (List HookAct)),
    s.hook = some h → s.hookRuns = run :: runs → hookRunDutiful run = true →
    (∀ n rest, s.live = n :: rest → (∃ t, exec .syscall s = .next t ∧ SameBindings s t) ∧
      (run = [] → exec .syscall s =
        .next { s with sp := s.sp + 1, hookRuns := runs, hookCount := s.hookCount + 1 })) ∧
    syscallForms.eachImm false (fun i _ => (∃ t, exec i s = .next t ∧ SameBindings s t) ∧
      (run = [] → exec i s =
        .next { s with hookRuns := runs, hookCount := s.hookCount + 1 }))

/-- 47_system.md R707, R708: each primitive acts on the VM as the operation it names, a failing one ends the
run with its fault latched and all earlier effects kept, and `HRaise` latches its code. That an action
outside the VM leaves the codec as it is, is the model's choice (log 17). -/
def Obligations.HookPrimitivesAct : Prop :=
  ∀ (s : State) (rest : List HookAct),
    runHook [] s = .next s ∧
    runHook (.inspect :: rest) s = runHook rest s ∧
    runHook (.outside :: rest) s = runHook rest s ∧
    (∀ v more, s.live = v :: more →
      runHook (.pop :: rest) s = runHook rest { s with sp := s.sp + 1 }) ∧
    (s.live = [] → runHook (.pop :: rest) s = .next { s with err := .stackEmpty }) ∧
    (∀ v, s.sp ≠ 0 → runHook (.push v :: rest) s =
      runHook rest { s with sp := s.sp - 1, stack := s.stack.set (s.sp - 1) v }) ∧
    (∀ v, s.sp = 0 → runHook (.push v :: rest) s = .next { s with err := .stackFull }) ∧
    (∀ a w, a.toNat + widthBytes w ≤ s.data.len →
      runHook (.memRead a w :: rest) s = runHook rest s) ∧
    (∀ a w, s.data.len < a.toNat + widthBytes w →
      runHook (.memRead a w :: rest) s = .next { s with err := .dataAddressOutOfBounds }) ∧
    (∀ a w v, s.data.wf = true → a.toNat + widthBytes w ≤ s.data.len →
      ∃ d, Stored s.data d a.toNat (widthBytes w) v ∧
        runHook (.memWrite a w v :: rest) s = runHook rest { s with data := d }) ∧
    (∀ a w v, s.data.len < a.toNat + widthBytes w →
      runHook (.memWrite a w v :: rest) s = .next { s with err := .dataAddressOutOfBounds }) ∧
    (∀ c, c ≠ .success → runHook (.raise c :: rest) s = .next { s with err := c })

/-- 47_system.md R710: a hook that breaks a duty is refused, and one that never returns stops the machine,
wherever in its run that comes after primitives that succeed. -/
def Obligations.HookBreachesAreRefused : Prop :=
  ∀ (s t : State) (run rest : List HookAct), hookRunDutiful run = true →
    runHook run s = .next t → t.err = s.err → s.Ready →
    (∀ b, runHook (run ++ .breach b :: rest) s = .refused (.hookBreaksDuty b)) ∧
    runHook (run ++ .raise .success :: rest) s = .refused .hookRaisesSuccess ∧
    runHook (run ++ .spin :: rest) s = .fault .hookNeverReturns

/-- 47_system.md R711: the core itself never raises `CallArgOutOfRange`: an instruction other than syscall
never latches it, and neither does syscall without a hook. -/
def Obligations.CoreNeverRaisesCallArg : Prop :=
  ∀ (i : Instr) (s t : State), s.err ≠ .callArgOutOfRange →
    (isSyscall i = false ∨ s.hook = none) → exec i s = .next t → t.err ≠ .callArgOutOfRange

/-! ## Frames and whole-machine rules -/

/-- Every instruction but syscall ends in a next state, whatever the state: with its effect, or with a fault
latched (60_exceptions.md R903). -/
def Obligations.InstructionsNeverStop : Prop :=
  ∀ (i : Instr) (s : State), isSyscall i = false → ∃ t, exec i s = .next t

/-- 10_state.md R104-R106, 20_memory.md R220: no instruction, with any hook, changes the program, the
buffer lengths, the stack's capacity or the hook binding; and none touches the codec (00_scope.md R10)
or what the host still has to do. That a hook, host code, commands no codec unit while `syscall` runs
is the model's choice (log 17). -/
def Obligations.InstructionsKeepBindingsAndCodec : Prop :=
  ∀ (i : Instr) (s t : State), exec i s = .next t →
    SameBindings s t ∧ SameCodec s t ∧ SameHost s t

/-- 20_memory.md R203: an instruction that is no store, no block copy and no syscall leaves every byte of data
memory as it was, whatever its outcome, and uses no hook run. -/
def Obligations.OnlyStoresWriteData : Prop :=
  ∀ (i : Instr) (s t : State), mayWriteData i = false → exec i s = .next t →
    (∀ a, Buffer.get t.data a = Buffer.get s.data a) ∧ t.data = s.data ∧
      t.hookRuns = s.hookRuns ∧ t.hookCount = s.hookCount

/-- 10_state.md R100: while it executes, no instruction but a control transfer writes `ip`, with any hook
(47_system.md R710). -/
def Obligations.OnlyTransfersWriteIp : Prop :=
  ∀ (i : Instr) (s t : State), isTransfer i = false → exec i s = .next t → t.ip = s.ip

/-- 70_reset_and_hazards.md R1013: the listed instructions leave at most one more word on the stack; every
other instruction (syscall's hook apart) leaves the depth unchanged or lower. -/
def Obligations.StackGrowth : Prop :=
  ∀ (i : Instr) (s t : State), isSyscall i = false → exec i s = .next t →
    (growsStack i = false → s.sp ≤ t.sp) ∧ s.sp ≤ t.sp + 1

/-- 60_exceptions.md R904, R208: an instruction that raises `StackEmpty`, `StackFull` or an address fault
changes no data byte, if it is no syscall. -/
def Obligations.FaultingInstructionsKeepData : Prop :=
  ∀ (i : Instr) (s t : State), isSyscall i = false → s.Ready → exec i s = .next t → t.Faulted →
    t.data = s.data

/-- The machine's invariant (10_state.md R101, R107, R120, R121; 00_scope.md R11; the canonical form of both
memories, log 3) is kept by every step: every instruction, every hook run, every host call. -/
def Obligations.StepKeepsTheInvariant : Prop :=
  ∀ s t : State, s.Inv → step s = .next t → t.Inv

/-- The invariant holds after construction with well-formed parameters, and at `State.reset` (whose
parameters are the model's choice, log 2). -/
def Obligations.InvariantHoldsInitially : Prop :=
  State.reset.Inv ∧ ∀ p : Params, p.wellFormed = true → (State.construct p).Inv

/-! ## The frame codec -/

/-- 48_frame_codec.md R751, R770: initialisation, with and without its callbacks. Two clauses are the
model's choice: that the bytes of `enc_payload` and `dec_buf`, which 10_state.md R120 and R121 leave
unspecified, stay as they were (log 4), and what a missing callback does to a unit already initialised
(log 7). -/
def Obligations.CodecInitialisation : Prop :=
  (∀ s rest sink, Calling s (.encInit sink) rest →
    step s = .next { s with
      calls := rest
      enc := if sink then { s.enc with bound := true, count := 0, final := false, delim := false }
             else { s.enc with bound := false }
      ret := .codec (if sink then .ok else .nullArgument) }) ∧
  (∀ s rest r d p f, Calling s (.decInit r d p f) rest →
    step s = .next { s with
      calls := rest
      dec := if r && d && p && f then { s.dec with bound := true, idx := 0 }
             else { s.dec with bound := false }
      ret := .codec (if r && d && p && f then .ok else .nullArgument) })

/-- 48_frame_codec.md R752, R753: `append_u8` stores the byte and flushes a frame of 63 payload bytes at
once, carrying and clearing the flags. That the frame sink, host code, changes nothing of the VM and
the decoder inside the step is the model's choice (log 18). -/
def Obligations.AppendFlushesAtSixtyThree : Prop :=
  ∀ s rest b, Calling s (.appendU8 b) rest → s.enc.bound = true → s.enc.Inv →
    (s.enc.count < 62 → step s = .next { s with
      calls := rest
      enc := { s.enc with payload := s.enc.payload.set s.enc.count b, count := s.enc.count + 1 }
      ret := .codec .ok }) ∧
    (s.enc.count = 62 → step s = .next { s with
      calls := rest
      enc := { s.enc with payload := s.enc.payload.set 62 b, count := 0, final := false,
                          delim := false }
      frames := s.frames ++
        [headerByte s.enc.final s.enc.delim 63 :: (s.enc.payload.take 62 ++ [b])]
      ret := .codec .ok })

/-- 48_frame_codec.md R754: `append_buf` does what `append_u8` of its bytes does, one after another. -/
def Obligations.AppendBufIsRepeatedAppend : Prop :=
  ∀ (s : State) (bytes : List Byte) (rest : List HostCall), s.budget = 0 → s.enc.bound = true →
    ∃ t u, step { s with calls := .appendBuf bytes :: rest } = .next t ∧
      Sys2Proof.core.run bytes.length
        { s with calls := bytes.map HostCall.appendU8 ++ rest } = .next u ∧
      t = { u with ret := .codec .ok }

/-- 48_frame_codec.md R755-R757: the flags stay set until the next flush; `write()` with nothing pending
returns `ZeroLength` and changes nothing else; otherwise it and `write_zero()` flush: one frame of the
flags, the count and the pending bytes, and all three cleared (R752). That the frame sink, host code,
changes nothing of the VM and the decoder inside the step is the model's choice (log 18). -/
def Obligations.FlagsAndFlushes : Prop :=
  ∀ s rest, s.enc.bound = true → s.enc.Inv →
    (∀ f, Calling s (.setFinal f) rest → step s = .next { s with
      calls := rest, enc := { s.enc with final := f }, ret := .codec .ok }) ∧
    (∀ d, Calling s (.setDelimited d) rest → step s = .next { s with
      calls := rest, enc := { s.enc with delim := d }, ret := .codec .ok }) ∧
    (Calling s .write rest → s.enc.count = 0 → step s = .next { s with
      calls := rest, ret := .codec .zeroLength }) ∧
    (Calling s .write rest → s.enc.count ≠ 0 → step s = .next { s with
      calls := rest
      enc := { s.enc with count := 0, final := false, delim := false }
      frames := s.frames ++ [headerByte s.enc.final s.enc.delim s.enc.count ::
        s.enc.payload.take s.enc.count]
      ret := .codec .ok }) ∧
    (Calling s .writeZero rest → step s = .next { s with
      calls := rest
      enc := { s.enc with count := 0, final := false, delim := false }
      frames := s.frames ++ [headerByte s.enc.final s.enc.delim s.enc.count ::
        s.enc.payload.take s.enc.count]
      ret := .codec .ok })

/-- 48_frame_codec.md R758, 30_encoding.md R351: every step keeps this: every frame the sink has accepted is a
header followed by exactly the payload bytes it declares. -/
def Obligations.EmittedFramesAreWellFormed : Prop :=
  ∀ s t : State, s.Inv → (∀ f ∈ s.frames, IsFrame f) → step s = .next t →
    ∀ f ∈ t.frames, IsFrame f ∧ f.length ≤ 64

/-- 70_reset_and_hazards.md R1006: a command to a unit that is not initialised is refused. -/
def Obligations.UninitialisedUnitsAreRefused : Prop :=
  ∀ s c rest, Calling s c rest →
    (s.enc.bound = false → isEncoderCommand c = true →
      step s = .refused .encoderNotInitialised) ∧
    (s.dec.bound = false → ∀ got, c = .readFrameStep got →
      step s = .refused .decoderNotInitialised)

/-- 48_frame_codec.md R773, R774: a read that delivers nothing is `NoData` and leaves the decoder as it was; a
read that reports more than was asked is refused. That the read callback, host code, changes nothing of
the VM and the encoder inside the step is the model's choice (log 18). -/
def Obligations.ReadsOfNothingAndTooMuch : Prop :=
  ∀ s rest got, Calling s (.readFrameStep got) rest → s.dec.bound = true →
    (got = [] → step s = .next { s with calls := rest, ret := .codec .noData }) ∧
    (s.dec.idx = 0 → 1 < got.length → step s = .refused .readReportsTooMuch) ∧
    (∀ h more, s.dec.idx ≠ 0 → s.dec.buf = h :: more →
      h.toNat % 64 + 1 < s.dec.idx + got.length → got ≠ [] →
      step s = .refused .readReportsTooMuch)

/-- 48_frame_codec.md R771, R772: however a frame's bytes are split into reads, the decoder makes its
callbacks once, in order, and is ready for the next header; reads that deliver all they are asked for
and reads of single bytes are both accepted. -/
def Obligations.DecoderReportsEachFrame : Prop :=
  ∀ (s : State) (final delim : Bool) (payload : List Byte),
    s.dec.buf.length = 64 → s.dec.idx = 0 → payload.length ≤ 63 →
    (∀ (t : State) (chunks : List (List Byte)),
      chunks.flatten = headerByte final delim payload.length :: payload →
      feed chunks s = some t →
      t.events = s.events ++ eventsOf final delim payload ∧ t.dec.idx = 0 ∧
        t.dec.buf.length = 64) ∧
    (∃ t, feed [[headerByte final delim payload.length], payload] s = some t) ∧
    (∃ t, feed ((headerByte final delim payload.length :: payload).map fun b => [b]) s = some t)

/-- 48_frame_codec.md R775: chunking invariance. From one decoder state, two ways of splitting one byte
stream into reads make the same callbacks and leave the same decoder. -/
def Obligations.ChunkingInvariance : Prop :=
  ∀ (s t u : State) (chunks chunks' : List (List Byte)), s.dec.Inv →
    chunks.flatten = chunks'.flatten → feed chunks s = some t → feed chunks' s = some u →
    t.events = u.events ∧ t.dec = u.dec

/-- 48_frame_codec.md R753-R758, R771-R775: what is appended and written comes out of the decoder. From an
encoder with nothing pending, the frames that `append_buf bytes; write()` passes to the sink, read by a
decoder byte by byte, deliver exactly `bytes`. -/
def Obligations.CodecRoundTrip : Prop :=
  ∀ (s : State) (bytes : List Byte), s.Inv → s.enc.count = 0 → s.dec.idx = 0 →
    ∃ new u, (encWrite (appendBuf bytes s)).1.frames = s.frames ++ new ∧
      feed (new.flatten.map fun b => [b]) s = some u ∧ u.dec.idx = 0 ∧
      payloadOf (u.events.drop s.events.length) = bytes
end

