-- ==== Sys2Proof/Laws/Bytes.lean ====
section
/-! SUPPORT. The laws of the byte-order helpers: what little-endian reading yields as a number, and that
reading and writing are inverse. -/

namespace Sys2Proof

@[simp] theorem leWord_nil : leWord [] = 0 := rfl

/-- Reading one more byte, as numbers: the byte in front is the least significant one. -/
theorem leWord_cons_toNat (b : Byte) (rest : List Byte) (h : (leWord rest).toNat < 2 ^ 24) :
    (leWord (b :: rest)).toNat = b.toNat + 256 * (leWord rest).toNat := by
  have hb := b.isLt
  have hd : b.setWidth 32 &&& leWord rest <<< 8 = 0#32 := by
    ext i hi
    by_cases h8 : i < 8
    · simp [BitVec.getElem_shiftLeft, h8]
    · simp [BitVec.getElem_setWidth, BitVec.getLsbD_of_ge b i (by omega)]
  rw [leWord, ← BitVec.add_eq_or_of_and_eq_zero _ _ hd, BitVec.toNat_add, BitVec.toNat_shiftLeft,
    BitVec.toNat_setWidth, Nat.shiftLeft_eq]
  omega

/-- At most four bytes read as a number below `256 ^ length`. -/
theorem leWord_lt (l : List Byte) (h : l.length ≤ 4) : (leWord l).toNat < 256 ^ l.length := by
  induction l with
  | nil => decide
  | cons b rest ih =>
    simp only [List.length_cons] at h ⊢
    have hr := ih (by omega)
    have hm : 256 ^ rest.length ≤ 256 ^ 3 := Nat.pow_le_pow_right (by decide) (by omega)
    rw [leWord_cons_toNat b rest (by omega), Nat.pow_succ]
    have := b.isLt
    omega

/-- Reading up to four bytes, as numbers, byte by byte. -/
theorem leWord_toNat_cons (b : Byte) (rest : List Byte) (h : rest.length ≤ 3) :
    (leWord (b :: rest)).toNat = b.toNat + 256 * (leWord rest).toNat := by
  have hr := leWord_lt rest (by omega)
  have hm : 256 ^ rest.length ≤ 256 ^ 3 := Nat.pow_le_pow_right (by decide) h
  exact leWord_cons_toNat b rest (by omega)

@[simp] theorem wordBytes_length (n : Nat) (v : Word) : (wordBytes n v).length = n := by
  induction n generalizing v with
  | zero => rfl
  | succ n ih => simp [wordBytes, ih]

/-- Byte `i` of a word, the least significant first. -/
theorem wordBytes_getElem? (n : Nat) (v : Word) (i : Nat) (h : i < n) :
    (wordBytes n v)[i]? = some ((v >>> (8 * i)).setWidth 8) := by
  induction n generalizing v i with
  | zero => omega
  | succ n ih =>
    cases i with
    | zero => simp [wordBytes]
    | succ i =>
      rw [wordBytes, List.getElem?_cons_succ, ih _ _ (by omega), ← BitVec.shiftRight_add,
        Nat.mul_add, Nat.add_comm]

/-- Writing the low `n` bytes of a word and reading them back keeps the low `n` bytes. -/
theorem leWord_wordBytes_toNat (n : Nat) (v : Word) (h : n ≤ 4) :
    (leWord (wordBytes n v)).toNat = v.toNat % 256 ^ n := by
  induction n generalizing v with
  | zero => simp [wordBytes, Nat.mod_one]
  | succ n ih =>
    rw [wordBytes, leWord_toNat_cons _ _ (by simp; omega), ih _ (by omega),
      BitVec.toNat_ushiftRight, BitVec.toNat_setWidth, Nat.shiftRight_eq_div_pow,
      show 256 ^ (n + 1) = 256 * 256 ^ n from Nat.pow_succ', Nat.mod_mul]

/-- Four bytes hold the whole word. -/
theorem leWord_wordBytes_four (v : Word) : leWord (wordBytes 4 v) = v := by
  apply BitVec.eq_of_toNat_eq
  rw [leWord_wordBytes_toNat 4 v (by decide)]
  exact Nat.mod_eq_of_lt v.isLt

/-- Bytes read and written back are the bytes. -/
theorem wordBytes_leWord (l : List Byte) (h : l.length ≤ 4) : wordBytes l.length (leWord l) = l := by
  induction l with
  | nil => rfl
  | cons b rest ih =>
    simp only [List.length_cons] at h
    have hc := leWord_toNat_cons b rest (by omega)
    have hb := b.isLt
    have h1 : (leWord (b :: rest)).setWidth 8 = b := by
      apply BitVec.eq_of_toNat_eq
      rw [BitVec.toNat_setWidth, hc]; omega
    have h2 : leWord (b :: rest) >>> 8 = leWord rest := by
      apply BitVec.eq_of_toNat_eq
      rw [BitVec.toNat_ushiftRight, hc, Nat.shiftRight_eq_div_pow]; omega
    rw [List.length_cons, wordBytes, h1, h2, ih (by omega)]

@[simp] theorem immBytes_length {n : Nat} (count : Nat) (raw : BitVec n) :
    (immBytes count raw).length = count := wordBytes_length _ _

/-- Decoding an opcode byte that is followed by enough immediate bytes. -/
theorem decode_of_some {opc : Byte} {imm rest : List Byte} {i : Instr}
    (h : imm.length = immLength opc) (hd : decodeOp opc (leWord imm) = some i) :
    decode (opc :: (imm ++ rest)) = .instr i rest := by
  have hn : ¬ (imm ++ rest).length < imm.length := by simp
  simp only [decode, ← h, if_neg hn, List.take_left, List.drop_left, hd]

theorem decode_of_none {opc : Byte} {imm rest : List Byte}
    (h : imm.length = immLength opc) (hd : decodeOp opc (leWord imm) = none) :
    ∃ r, decode (opc :: (imm ++ rest)) = .rejected r := by
  have hn : ¬ (imm ++ rest).length < imm.length := by simp
  simp only [decode, ← h, if_neg hn, List.take_left, hd]
  by_cases hs : selectorReserved (selector opc) = true
  · exact ⟨_, if_pos hs⟩
  · exact ⟨_, if_neg hs⟩

/-- What bytes that decode to an instruction look like. -/
theorem decode_instr_cases {bytes rest : List Byte} {i : Instr} (h : decode bytes = .instr i rest) :
    ∃ opc imm, bytes = opc :: (imm ++ rest) ∧ imm.length = immLength opc ∧
      decodeOp opc (leWord imm) = some i := by
  cases bytes with
  | nil => simp [decode] at h
  | cons opc more =>
    simp only [decode] at h
    split at h
    · simp at h
    · rename_i hl
      cases hd : decodeOp opc (leWord (more.take (immLength opc))) with
      | none =>
        simp only [hd] at h
        split at h <;> simp at h
      | some j =>
        simp only [hd, Decoded.instr.injEq] at h
        obtain ⟨rfl, rfl⟩ := h
        exact ⟨opc, more.take (immLength opc), by simp, by simp; omega, hd⟩

/-- The class of an opcode byte asks for at most four immediate bytes. -/
theorem immLength_le (opc : Byte) : immLength opc ≤ 4 := by
  unfold immLength; split <;> decide

/-- Decoding a one-byte immediate. -/
theorem decode_imm8 {opc : Byte} {raw : BitVec 8} {i : Instr} (rest : List Byte)
    (h : opc.toNat / 64 = 1) (hd : decodeI8 (selector opc) raw = some i) :
    decode ((opc :: immBytes 1 raw) ++ rest) = .instr i rest := by
  have hw : leWord (immBytes 1 raw) = raw.setWidth 32 := by
    apply BitVec.eq_of_toNat_eq
    rw [immBytes, leWord_wordBytes_toNat _ _ (by decide)]
    simp
    omega
  refine decode_of_some (by simp [immLength, h]) ?_
  rw [hw]
  simpa only [decodeOp, h, BitVec.setWidth_setWidth_of_le _ (by decide : 8 ≤ 32),
    BitVec.setWidth_eq] using hd

/-- Decoding a two-byte immediate. -/
theorem decode_imm16 {opc : Byte} {raw : BitVec 16} {i : Instr} (rest : List Byte)
    (h : opc.toNat / 64 = 2) (hd : decodeI16 (selector opc) raw = some i) :
    decode ((opc :: immBytes 2 raw) ++ rest) = .instr i rest := by
  have hw : leWord (immBytes 2 raw) = raw.setWidth 32 := by
    apply BitVec.eq_of_toNat_eq
    rw [immBytes, leWord_wordBytes_toNat _ _ (by decide)]
    simp
    omega
  refine decode_of_some (by simp [immLength, h]) ?_
  rw [hw]
  simpa only [decodeOp, h, BitVec.setWidth_setWidth_of_le _ (by decide : 16 ≤ 32),
    BitVec.setWidth_eq] using hd

/-- Decoding a four-byte immediate. -/
theorem decode_imm32 {opc : Byte} {raw : BitVec 32} {i : Instr} (rest : List Byte)
    (h : opc.toNat / 64 = 3) (hd : decodeI32 (selector opc) raw = some i) :
    decode ((opc :: immBytes 4 raw) ++ rest) = .instr i rest := by
  refine decode_of_some (by simp [immLength, h]) ?_
  rw [immBytes, leWord_wordBytes_four]
  simpa only [decodeOp, h, BitVec.setWidth_eq] using hd

end Sys2Proof
end

