-- ==== Sys2Proof/Laws/State.lean ====
section
/-! SUPPORT. One lemma per field per update of `State`, so that no proof unfolds a record update. -/

namespace Sys2Proof.Machine

open Sys2Proof

variable (s : State)

@[simp] theorem State.setIp_ip (v : Word) : (s.setIp v).ip = v := rfl
@[simp] theorem State.setIp_sp (v : Word) : (s.setIp v).sp = s.sp := rfl
@[simp] theorem State.setIp_stack (v : Word) : (s.setIp v).stack = s.stack := rfl
@[simp] theorem State.setIp_err (v : Word) : (s.setIp v).err = s.err := rfl
@[simp] theorem State.setIp_program (v : Word) : (s.setIp v).program = s.program := rfl
@[simp] theorem State.setIp_data (v : Word) : (s.setIp v).data = s.data := rfl
@[simp] theorem State.setIp_hook (v : Word) : (s.setIp v).hook = s.hook := rfl
@[simp] theorem State.setIp_enc (v : Word) : (s.setIp v).enc = s.enc := rfl
@[simp] theorem State.setIp_dec (v : Word) : (s.setIp v).dec = s.dec := rfl
@[simp] theorem State.setIp_budget (v : Word) : (s.setIp v).budget = s.budget := rfl
@[simp] theorem State.setIp_calls (v : Word) : (s.setIp v).calls = s.calls := rfl
@[simp] theorem State.setIp_hookRuns (v : Word) : (s.setIp v).hookRuns = s.hookRuns := rfl
@[simp] theorem State.setIp_hookCount (v : Word) : (s.setIp v).hookCount = s.hookCount := rfl
@[simp] theorem State.setIp_ret (v : Word) : (s.setIp v).ret = s.ret := rfl
@[simp] theorem State.setIp_frames (v : Word) : (s.setIp v).frames = s.frames := rfl
@[simp] theorem State.setIp_events (v : Word) : (s.setIp v).events = s.events := rfl

@[simp] theorem State.setSp_ip (n : Nat) : (s.setSp n).ip = s.ip := rfl
@[simp] theorem State.setSp_sp (n : Nat) : (s.setSp n).sp = n := rfl
@[simp] theorem State.setSp_stack (n : Nat) : (s.setSp n).stack = s.stack := rfl
@[simp] theorem State.setSp_err (n : Nat) : (s.setSp n).err = s.err := rfl
@[simp] theorem State.setSp_program (n : Nat) : (s.setSp n).program = s.program := rfl
@[simp] theorem State.setSp_data (n : Nat) : (s.setSp n).data = s.data := rfl
@[simp] theorem State.setSp_hook (n : Nat) : (s.setSp n).hook = s.hook := rfl
@[simp] theorem State.setSp_enc (n : Nat) : (s.setSp n).enc = s.enc := rfl
@[simp] theorem State.setSp_dec (n : Nat) : (s.setSp n).dec = s.dec := rfl
@[simp] theorem State.setSp_budget (n : Nat) : (s.setSp n).budget = s.budget := rfl
@[simp] theorem State.setSp_calls (n : Nat) : (s.setSp n).calls = s.calls := rfl
@[simp] theorem State.setSp_hookRuns (n : Nat) : (s.setSp n).hookRuns = s.hookRuns := rfl
@[simp] theorem State.setSp_hookCount (n : Nat) : (s.setSp n).hookCount = s.hookCount := rfl
@[simp] theorem State.setSp_ret (n : Nat) : (s.setSp n).ret = s.ret := rfl
@[simp] theorem State.setSp_frames (n : Nat) : (s.setSp n).frames = s.frames := rfl
@[simp] theorem State.setSp_events (n : Nat) : (s.setSp n).events = s.events := rfl

@[simp] theorem State.setCell_ip (i : Nat) (v : Word) : (s.setCell i v).ip = s.ip := rfl
@[simp] theorem State.setCell_sp (i : Nat) (v : Word) : (s.setCell i v).sp = s.sp := rfl
@[simp] theorem State.setCell_stack (i : Nat) (v : Word) : (s.setCell i v).stack = s.stack.set i v := rfl
@[simp] theorem State.setCell_err (i : Nat) (v : Word) : (s.setCell i v).err = s.err := rfl
@[simp] theorem State.setCell_program (i : Nat) (v : Word) : (s.setCell i v).program = s.program := rfl
@[simp] theorem State.setCell_data (i : Nat) (v : Word) : (s.setCell i v).data = s.data := rfl
@[simp] theorem State.setCell_hook (i : Nat) (v : Word) : (s.setCell i v).hook = s.hook := rfl
@[simp] theorem State.setCell_enc (i : Nat) (v : Word) : (s.setCell i v).enc = s.enc := rfl
@[simp] theorem State.setCell_dec (i : Nat) (v : Word) : (s.setCell i v).dec = s.dec := rfl
@[simp] theorem State.setCell_budget (i : Nat) (v : Word) : (s.setCell i v).budget = s.budget := rfl
@[simp] theorem State.setCell_calls (i : Nat) (v : Word) : (s.setCell i v).calls = s.calls := rfl
@[simp] theorem State.setCell_hookRuns (i : Nat) (v : Word) : (s.setCell i v).hookRuns = s.hookRuns := rfl
@[simp] theorem State.setCell_hookCount (i : Nat) (v : Word) : (s.setCell i v).hookCount = s.hookCount := rfl
@[simp] theorem State.setCell_ret (i : Nat) (v : Word) : (s.setCell i v).ret = s.ret := rfl
@[simp] theorem State.setCell_frames (i : Nat) (v : Word) : (s.setCell i v).frames = s.frames := rfl
@[simp] theorem State.setCell_events (i : Nat) (v : Word) : (s.setCell i v).events = s.events := rfl

@[simp] theorem State.setErr_ip (c : ErrCode) : (s.setErr c).ip = s.ip := rfl
@[simp] theorem State.setErr_sp (c : ErrCode) : (s.setErr c).sp = s.sp := rfl
@[simp] theorem State.setErr_stack (c : ErrCode) : (s.setErr c).stack = s.stack := rfl
@[simp] theorem State.setErr_err (c : ErrCode) : (s.setErr c).err = c := rfl
@[simp] theorem State.setErr_program (c : ErrCode) : (s.setErr c).program = s.program := rfl
@[simp] theorem State.setErr_data (c : ErrCode) : (s.setErr c).data = s.data := rfl
@[simp] theorem State.setErr_hook (c : ErrCode) : (s.setErr c).hook = s.hook := rfl
@[simp] theorem State.setErr_enc (c : ErrCode) : (s.setErr c).enc = s.enc := rfl
@[simp] theorem State.setErr_dec (c : ErrCode) : (s.setErr c).dec = s.dec := rfl
@[simp] theorem State.setErr_budget (c : ErrCode) : (s.setErr c).budget = s.budget := rfl
@[simp] theorem State.setErr_calls (c : ErrCode) : (s.setErr c).calls = s.calls := rfl
@[simp] theorem State.setErr_hookRuns (c : ErrCode) : (s.setErr c).hookRuns = s.hookRuns := rfl
@[simp] theorem State.setErr_hookCount (c : ErrCode) : (s.setErr c).hookCount = s.hookCount := rfl
@[simp] theorem State.setErr_ret (c : ErrCode) : (s.setErr c).ret = s.ret := rfl
@[simp] theorem State.setErr_frames (c : ErrCode) : (s.setErr c).frames = s.frames := rfl
@[simp] theorem State.setErr_events (c : ErrCode) : (s.setErr c).events = s.events := rfl

@[simp] theorem State.setData_ip (d : Buffer) : (s.setData d).ip = s.ip := rfl
@[simp] theorem State.setData_sp (d : Buffer) : (s.setData d).sp = s.sp := rfl
@[simp] theorem State.setData_stack (d : Buffer) : (s.setData d).stack = s.stack := rfl
@[simp] theorem State.setData_err (d : Buffer) : (s.setData d).err = s.err := rfl
@[simp] theorem State.setData_program (d : Buffer) : (s.setData d).program = s.program := rfl
@[simp] theorem State.setData_data (d : Buffer) : (s.setData d).data = d := rfl
@[simp] theorem State.setData_hook (d : Buffer) : (s.setData d).hook = s.hook := rfl
@[simp] theorem State.setData_enc (d : Buffer) : (s.setData d).enc = s.enc := rfl
@[simp] theorem State.setData_dec (d : Buffer) : (s.setData d).dec = s.dec := rfl
@[simp] theorem State.setData_budget (d : Buffer) : (s.setData d).budget = s.budget := rfl
@[simp] theorem State.setData_calls (d : Buffer) : (s.setData d).calls = s.calls := rfl
@[simp] theorem State.setData_hookRuns (d : Buffer) : (s.setData d).hookRuns = s.hookRuns := rfl
@[simp] theorem State.setData_hookCount (d : Buffer) : (s.setData d).hookCount = s.hookCount := rfl
@[simp] theorem State.setData_ret (d : Buffer) : (s.setData d).ret = s.ret := rfl
@[simp] theorem State.setData_frames (d : Buffer) : (s.setData d).frames = s.frames := rfl
@[simp] theorem State.setData_events (d : Buffer) : (s.setData d).events = s.events := rfl

@[simp] theorem State.setEnc_ip (e : Encoder) : (s.setEnc e).ip = s.ip := rfl
@[simp] theorem State.setEnc_sp (e : Encoder) : (s.setEnc e).sp = s.sp := rfl
@[simp] theorem State.setEnc_stack (e : Encoder) : (s.setEnc e).stack = s.stack := rfl
@[simp] theorem State.setEnc_err (e : Encoder) : (s.setEnc e).err = s.err := rfl
@[simp] theorem State.setEnc_program (e : Encoder) : (s.setEnc e).program = s.program := rfl
@[simp] theorem State.setEnc_data (e : Encoder) : (s.setEnc e).data = s.data := rfl
@[simp] theorem State.setEnc_hook (e : Encoder) : (s.setEnc e).hook = s.hook := rfl
@[simp] theorem State.setEnc_enc (e : Encoder) : (s.setEnc e).enc = e := rfl
@[simp] theorem State.setEnc_dec (e : Encoder) : (s.setEnc e).dec = s.dec := rfl
@[simp] theorem State.setEnc_budget (e : Encoder) : (s.setEnc e).budget = s.budget := rfl
@[simp] theorem State.setEnc_calls (e : Encoder) : (s.setEnc e).calls = s.calls := rfl
@[simp] theorem State.setEnc_hookRuns (e : Encoder) : (s.setEnc e).hookRuns = s.hookRuns := rfl
@[simp] theorem State.setEnc_hookCount (e : Encoder) : (s.setEnc e).hookCount = s.hookCount := rfl
@[simp] theorem State.setEnc_ret (e : Encoder) : (s.setEnc e).ret = s.ret := rfl
@[simp] theorem State.setEnc_frames (e : Encoder) : (s.setEnc e).frames = s.frames := rfl
@[simp] theorem State.setEnc_events (e : Encoder) : (s.setEnc e).events = s.events := rfl

@[simp] theorem State.setDec_ip (d : Decoder) : (s.setDec d).ip = s.ip := rfl
@[simp] theorem State.setDec_sp (d : Decoder) : (s.setDec d).sp = s.sp := rfl
@[simp] theorem State.setDec_stack (d : Decoder) : (s.setDec d).stack = s.stack := rfl
@[simp] theorem State.setDec_err (d : Decoder) : (s.setDec d).err = s.err := rfl
@[simp] theorem State.setDec_program (d : Decoder) : (s.setDec d).program = s.program := rfl
@[simp] theorem State.setDec_data (d : Decoder) : (s.setDec d).data = s.data := rfl
@[simp] theorem State.setDec_hook (d : Decoder) : (s.setDec d).hook = s.hook := rfl
@[simp] theorem State.setDec_enc (d : Decoder) : (s.setDec d).enc = s.enc := rfl
@[simp] theorem State.setDec_dec (d : Decoder) : (s.setDec d).dec = d := rfl
@[simp] theorem State.setDec_budget (d : Decoder) : (s.setDec d).budget = s.budget := rfl
@[simp] theorem State.setDec_calls (d : Decoder) : (s.setDec d).calls = s.calls := rfl
@[simp] theorem State.setDec_hookRuns (d : Decoder) : (s.setDec d).hookRuns = s.hookRuns := rfl
@[simp] theorem State.setDec_hookCount (d : Decoder) : (s.setDec d).hookCount = s.hookCount := rfl
@[simp] theorem State.setDec_ret (d : Decoder) : (s.setDec d).ret = s.ret := rfl
@[simp] theorem State.setDec_frames (d : Decoder) : (s.setDec d).frames = s.frames := rfl
@[simp] theorem State.setDec_events (d : Decoder) : (s.setDec d).events = s.events := rfl

@[simp] theorem State.setBudget_ip (n : Nat) : (s.setBudget n).ip = s.ip := rfl
@[simp] theorem State.setBudget_sp (n : Nat) : (s.setBudget n).sp = s.sp := rfl
@[simp] theorem State.setBudget_stack (n : Nat) : (s.setBudget n).stack = s.stack := rfl
@[simp] theorem State.setBudget_err (n : Nat) : (s.setBudget n).err = s.err := rfl
@[simp] theorem State.setBudget_program (n : Nat) : (s.setBudget n).program = s.program := rfl
@[simp] theorem State.setBudget_data (n : Nat) : (s.setBudget n).data = s.data := rfl
@[simp] theorem State.setBudget_hook (n : Nat) : (s.setBudget n).hook = s.hook := rfl
@[simp] theorem State.setBudget_enc (n : Nat) : (s.setBudget n).enc = s.enc := rfl
@[simp] theorem State.setBudget_dec (n : Nat) : (s.setBudget n).dec = s.dec := rfl
@[simp] theorem State.setBudget_budget (n : Nat) : (s.setBudget n).budget = n := rfl
@[simp] theorem State.setBudget_calls (n : Nat) : (s.setBudget n).calls = s.calls := rfl
@[simp] theorem State.setBudget_hookRuns (n : Nat) : (s.setBudget n).hookRuns = s.hookRuns := rfl
@[simp] theorem State.setBudget_hookCount (n : Nat) : (s.setBudget n).hookCount = s.hookCount := rfl
@[simp] theorem State.setBudget_ret (n : Nat) : (s.setBudget n).ret = s.ret := rfl
@[simp] theorem State.setBudget_frames (n : Nat) : (s.setBudget n).frames = s.frames := rfl
@[simp] theorem State.setBudget_events (n : Nat) : (s.setBudget n).events = s.events := rfl

@[simp] theorem State.setCalls_ip (cs : List HostCall) : (s.setCalls cs).ip = s.ip := rfl
@[simp] theorem State.setCalls_sp (cs : List HostCall) : (s.setCalls cs).sp = s.sp := rfl
@[simp] theorem State.setCalls_stack (cs : List HostCall) : (s.setCalls cs).stack = s.stack := rfl
@[simp] theorem State.setCalls_err (cs : List HostCall) : (s.setCalls cs).err = s.err := rfl
@[simp] theorem State.setCalls_program (cs : List HostCall) : (s.setCalls cs).program = s.program := rfl
@[simp] theorem State.setCalls_data (cs : List HostCall) : (s.setCalls cs).data = s.data := rfl
@[simp] theorem State.setCalls_hook (cs : List HostCall) : (s.setCalls cs).hook = s.hook := rfl
@[simp] theorem State.setCalls_enc (cs : List HostCall) : (s.setCalls cs).enc = s.enc := rfl
@[simp] theorem State.setCalls_dec (cs : List HostCall) : (s.setCalls cs).dec = s.dec := rfl
@[simp] theorem State.setCalls_budget (cs : List HostCall) : (s.setCalls cs).budget = s.budget := rfl
@[simp] theorem State.setCalls_calls (cs : List HostCall) : (s.setCalls cs).calls = cs := rfl
@[simp] theorem State.setCalls_hookRuns (cs : List HostCall) : (s.setCalls cs).hookRuns = s.hookRuns := rfl
@[simp] theorem State.setCalls_hookCount (cs : List HostCall) : (s.setCalls cs).hookCount = s.hookCount := rfl
@[simp] theorem State.setCalls_ret (cs : List HostCall) : (s.setCalls cs).ret = s.ret := rfl
@[simp] theorem State.setCalls_frames (cs : List HostCall) : (s.setCalls cs).frames = s.frames := rfl
@[simp] theorem State.setCalls_events (cs : List HostCall) : (s.setCalls cs).events = s.events := rfl

@[simp] theorem State.setHookRuns_ip (rs : List (List HookAct)) : (s.setHookRuns rs).ip = s.ip := rfl
@[simp] theorem State.setHookRuns_sp (rs : List (List HookAct)) : (s.setHookRuns rs).sp = s.sp := rfl
@[simp] theorem State.setHookRuns_stack (rs : List (List HookAct)) : (s.setHookRuns rs).stack = s.stack := rfl
@[simp] theorem State.setHookRuns_err (rs : List (List HookAct)) : (s.setHookRuns rs).err = s.err := rfl
@[simp] theorem State.setHookRuns_program (rs : List (List HookAct)) : (s.setHookRuns rs).program = s.program := rfl
@[simp] theorem State.setHookRuns_data (rs : List (List HookAct)) : (s.setHookRuns rs).data = s.data := rfl
@[simp] theorem State.setHookRuns_hook (rs : List (List HookAct)) : (s.setHookRuns rs).hook = s.hook := rfl
@[simp] theorem State.setHookRuns_enc (rs : List (List HookAct)) : (s.setHookRuns rs).enc = s.enc := rfl
@[simp] theorem State.setHookRuns_dec (rs : List (List HookAct)) : (s.setHookRuns rs).dec = s.dec := rfl
@[simp] theorem State.setHookRuns_budget (rs : List (List HookAct)) : (s.setHookRuns rs).budget = s.budget := rfl
@[simp] theorem State.setHookRuns_calls (rs : List (List HookAct)) : (s.setHookRuns rs).calls = s.calls := rfl
@[simp] theorem State.setHookRuns_hookRuns (rs : List (List HookAct)) : (s.setHookRuns rs).hookRuns = rs := rfl
@[simp] theorem State.setHookRuns_hookCount (rs : List (List HookAct)) : (s.setHookRuns rs).hookCount = s.hookCount + 1 := rfl
@[simp] theorem State.setHookRuns_ret (rs : List (List HookAct)) : (s.setHookRuns rs).ret = s.ret := rfl
@[simp] theorem State.setHookRuns_frames (rs : List (List HookAct)) : (s.setHookRuns rs).frames = s.frames := rfl
@[simp] theorem State.setHookRuns_events (rs : List (List HookAct)) : (s.setHookRuns rs).events = s.events := rfl

@[simp] theorem State.setRet_ip (r : HostReturn) : (s.setRet r).ip = s.ip := rfl
@[simp] theorem State.setRet_sp (r : HostReturn) : (s.setRet r).sp = s.sp := rfl
@[simp] theorem State.setRet_stack (r : HostReturn) : (s.setRet r).stack = s.stack := rfl
@[simp] theorem State.setRet_err (r : HostReturn) : (s.setRet r).err = s.err := rfl
@[simp] theorem State.setRet_program (r : HostReturn) : (s.setRet r).program = s.program := rfl
@[simp] theorem State.setRet_data (r : HostReturn) : (s.setRet r).data = s.data := rfl
@[simp] theorem State.setRet_hook (r : HostReturn) : (s.setRet r).hook = s.hook := rfl
@[simp] theorem State.setRet_enc (r : HostReturn) : (s.setRet r).enc = s.enc := rfl
@[simp] theorem State.setRet_dec (r : HostReturn) : (s.setRet r).dec = s.dec := rfl
@[simp] theorem State.setRet_budget (r : HostReturn) : (s.setRet r).budget = s.budget := rfl
@[simp] theorem State.setRet_calls (r : HostReturn) : (s.setRet r).calls = s.calls := rfl
@[simp] theorem State.setRet_hookRuns (r : HostReturn) : (s.setRet r).hookRuns = s.hookRuns := rfl
@[simp] theorem State.setRet_hookCount (r : HostReturn) : (s.setRet r).hookCount = s.hookCount := rfl
@[simp] theorem State.setRet_ret (r : HostReturn) : (s.setRet r).ret = r := rfl
@[simp] theorem State.setRet_frames (r : HostReturn) : (s.setRet r).frames = s.frames := rfl
@[simp] theorem State.setRet_events (r : HostReturn) : (s.setRet r).events = s.events := rfl

@[simp] theorem State.addFrame_ip (f : List Byte) : (s.addFrame f).ip = s.ip := rfl
@[simp] theorem State.addFrame_sp (f : List Byte) : (s.addFrame f).sp = s.sp := rfl
@[simp] theorem State.addFrame_stack (f : List Byte) : (s.addFrame f).stack = s.stack := rfl
@[simp] theorem State.addFrame_err (f : List Byte) : (s.addFrame f).err = s.err := rfl
@[simp] theorem State.addFrame_program (f : List Byte) : (s.addFrame f).program = s.program := rfl
@[simp] theorem State.addFrame_data (f : List Byte) : (s.addFrame f).data = s.data := rfl
@[simp] theorem State.addFrame_hook (f : List Byte) : (s.addFrame f).hook = s.hook := rfl
@[simp] theorem State.addFrame_enc (f : List Byte) : (s.addFrame f).enc = s.enc := rfl
@[simp] theorem State.addFrame_dec (f : List Byte) : (s.addFrame f).dec = s.dec := rfl
@[simp] theorem State.addFrame_budget (f : List Byte) : (s.addFrame f).budget = s.budget := rfl
@[simp] theorem State.addFrame_calls (f : List Byte) : (s.addFrame f).calls = s.calls := rfl
@[simp] theorem State.addFrame_hookRuns (f : List Byte) : (s.addFrame f).hookRuns = s.hookRuns := rfl
@[simp] theorem State.addFrame_hookCount (f : List Byte) : (s.addFrame f).hookCount = s.hookCount := rfl
@[simp] theorem State.addFrame_ret (f : List Byte) : (s.addFrame f).ret = s.ret := rfl
@[simp] theorem State.addFrame_frames (f : List Byte) : (s.addFrame f).frames = s.frames ++ [f] := rfl
@[simp] theorem State.addFrame_events (f : List Byte) : (s.addFrame f).events = s.events := rfl

@[simp] theorem State.addEvents_ip (es : List DecEvent) : (s.addEvents es).ip = s.ip := rfl
@[simp] theorem State.addEvents_sp (es : List DecEvent) : (s.addEvents es).sp = s.sp := rfl
@[simp] theorem State.addEvents_stack (es : List DecEvent) : (s.addEvents es).stack = s.stack := rfl
@[simp] theorem State.addEvents_err (es : List DecEvent) : (s.addEvents es).err = s.err := rfl
@[simp] theorem State.addEvents_program (es : List DecEvent) : (s.addEvents es).program = s.program := rfl
@[simp] theorem State.addEvents_data (es : List DecEvent) : (s.addEvents es).data = s.data := rfl
@[simp] theorem State.addEvents_hook (es : List DecEvent) : (s.addEvents es).hook = s.hook := rfl
@[simp] theorem State.addEvents_enc (es : List DecEvent) : (s.addEvents es).enc = s.enc := rfl
@[simp] theorem State.addEvents_dec (es : List DecEvent) : (s.addEvents es).dec = s.dec := rfl
@[simp] theorem State.addEvents_budget (es : List DecEvent) : (s.addEvents es).budget = s.budget := rfl
@[simp] theorem State.addEvents_calls (es : List DecEvent) : (s.addEvents es).calls = s.calls := rfl
@[simp] theorem State.addEvents_hookRuns (es : List DecEvent) : (s.addEvents es).hookRuns = s.hookRuns := rfl
@[simp] theorem State.addEvents_hookCount (es : List DecEvent) : (s.addEvents es).hookCount = s.hookCount := rfl
@[simp] theorem State.addEvents_ret (es : List DecEvent) : (s.addEvents es).ret = s.ret := rfl
@[simp] theorem State.addEvents_frames (es : List DecEvent) : (s.addEvents es).frames = s.frames := rfl
@[simp] theorem State.addEvents_events (es : List DecEvent) : (s.addEvents es).events = s.events ++ es := rfl

end Sys2Proof.Machine
end

