-- ==== Sys2Proof/Laws/Codec.lean ====
section
/-! SUPPORT. What the codec's operations do, case by case, and that they leave the VM core alone. -/

namespace Sys2Proof.Machine

open Sys2Proof

variable {s t : State}

/-! ## The encoder -/

theorem frameHeader_length (final delim : Bool) {n : Nat} (h : n ≤ 63) :
    headerLength (frameHeader final delim n) = n := by
  have : ∀ m : Fin 64, headerLength (frameHeader final delim m.val) = m.val := by
    cases final <;> cases delim <;> decide
  exact this ⟨n, by omega⟩

theorem frameHeader_flags (final delim : Bool) {n : Nat} (h : n ≤ 63) :
    headerFinal (frameHeader final delim n) = final ∧
      headerDelim (frameHeader final delim n) = delim := by
  have : ∀ m : Fin 64, headerFinal (frameHeader final delim m.val) = final ∧
      headerDelim (frameHeader final delim m.val) = delim := by
    cases final <;> cases delim <;> decide
  exact this ⟨n, by omega⟩

/-- The length field of a header is its value modulo 64. -/
theorem headerLength_eq (h : Byte) : headerLength h = h.toNat % 64 := by
  have : h.toNat &&& 63 = h.toNat % 2 ^ 6 := Nat.and_two_pow_sub_one_eq_mod _ 6
  simpa [headerLength] using this

theorem headerLength_le (h : Byte) : headerLength h ≤ 63 := by
  rw [headerLength_eq]; omega

/-- An append that does not complete a frame. -/
theorem appendU8_of_room (b : Byte) (h : s.enc.count < 62) :
    appendU8 b s = s.setEnc { s.enc with payload := s.enc.payload.set s.enc.count b,
                                         count := s.enc.count + 1 } := by
  have hn : ¬ s.enc.count + 1 = frameMaxPayload := by simp only [frameMaxPayload]; omega
  exact if_neg hn

/-- An append that completes a frame flushes it. -/
theorem appendU8_of_full (b : Byte) (h : s.enc.count = 62) :
    appendU8 b s = encFlush (s.setEnc { s.enc with payload := s.enc.payload.set s.enc.count b,
                                                   count := s.enc.count + 1 }) := by
  have hn : s.enc.count + 1 = frameMaxPayload := by simp only [frameMaxPayload]; omega
  exact if_pos hn

/-- Everything an append can do: it completes a frame, which is flushed, or it does not. -/
theorem appendU8_cases (b : Byte) (s : State) :
    (s.enc.count + 1 = frameMaxPayload ∧
      appendU8 b s = encFlush (s.setEnc { s.enc with payload := s.enc.payload.set s.enc.count b,
                                                     count := s.enc.count + 1 })) ∨
    (s.enc.count + 1 ≠ frameMaxPayload ∧
      appendU8 b s = s.setEnc { s.enc with payload := s.enc.payload.set s.enc.count b,
                                           count := s.enc.count + 1 }) := by
  by_cases h : s.enc.count + 1 = frameMaxPayload
  · exact .inl ⟨h, if_pos h⟩
  · exact .inr ⟨h, if_neg h⟩

theorem appendBuf_nil (s : State) : appendBuf [] s = s := rfl

theorem appendBuf_cons (b : Byte) (rest : List Byte) (s : State) :
    appendBuf (b :: rest) s = appendBuf rest (appendU8 b s) := rfl

theorem appendU8_setCalls (b : Byte) (s : State) (cs : List HostCall) :
    appendU8 b (s.setCalls cs) = (appendU8 b s).setCalls cs := by
  obtain ⟨h, e⟩ | ⟨h, e⟩ := appendU8_cases b s <;>
    obtain ⟨k, f⟩ | ⟨k, f⟩ := appendU8_cases b (s.setCalls cs)
  · rw [e, f]; rfl
  · exact absurd h k
  · exact absurd k h
  · rw [e, f]; rfl

theorem appendU8_setRet (b : Byte) (s : State) (r : HostReturn) :
    appendU8 b (s.setRet r) = (appendU8 b s).setRet r := by
  obtain ⟨h, e⟩ | ⟨h, e⟩ := appendU8_cases b s <;>
    obtain ⟨k, f⟩ | ⟨k, f⟩ := appendU8_cases b (s.setRet r)
  · rw [e, f]; rfl
  · exact absurd h k
  · exact absurd k h
  · rw [e, f]; rfl

theorem appendBuf_setCalls (bytes : List Byte) (s : State) (cs : List HostCall) :
    appendBuf bytes (s.setCalls cs) = (appendBuf bytes s).setCalls cs := by
  induction bytes generalizing s with
  | nil => rfl
  | cons b rest ih => rw [appendBuf_cons, appendBuf_cons, appendU8_setCalls, ih]

theorem appendBuf_setRet (bytes : List Byte) (s : State) (r : HostReturn) :
    appendBuf bytes (s.setRet r) = (appendBuf bytes s).setRet r := by
  induction bytes generalizing s with
  | nil => rfl
  | cons b rest ih => rw [appendBuf_cons, appendBuf_cons, appendU8_setRet, ih]

@[simp] theorem appendU8_bound (b : Byte) (s : State) :
    (appendU8 b s).enc.bound = s.enc.bound := by
  obtain ⟨-, e⟩ | ⟨-, e⟩ := appendU8_cases b s <;> rw [e] <;> rfl

/-- Everything `write` can do. -/
theorem encWrite_cases (s : State) :
    (s.enc.count = 0 ∧ encWrite s = (s, .zeroLength)) ∨
    (s.enc.count ≠ 0 ∧ encWrite s = (encFlush s, .ok)) := by
  by_cases h : s.enc.count = 0
  · exact .inl ⟨h, by simp [encWrite, h]⟩
  · exact .inr ⟨h, by simp [encWrite, h]⟩

/-- What the encoder's operations leave alone: everything but the encoder and the frames. -/
structure EncFrame (s t : State) : Prop where
  rest : ({ t with enc := s.enc, frames := s.frames } : State) = s

theorem EncFrame.refl (s : State) : EncFrame s s := ⟨rfl⟩

theorem EncFrame.trans {u : State} (h : EncFrame s t) (k : EncFrame t u) : EncFrame s u := by
  obtain ⟨h⟩ := h
  obtain ⟨k⟩ := k
  cases s; cases t; cases u
  simp only [State.mk.injEq] at h k
  constructor
  simp only [State.mk.injEq]
  obtain ⟨h1, h2, h3, h4, h5, h6, h7, -, h9, h10, h11, h12, h13, h14, -, h16⟩ := h
  obtain ⟨k1, k2, k3, k4, k5, k6, k7, -, k9, k10, k11, k12, k13, k14, -, k16⟩ := k
  exact ⟨k1.trans h1, k2.trans h2, k3.trans h3, k4.trans h4, k5.trans h5, k6.trans h6, k7.trans h7,
    trivial, k9.trans h9, k10.trans h10, k11.trans h11, k12.trans h12, k13.trans h13, k14.trans h14,
    trivial, k16.trans h16⟩

theorem encFlush_frame (s : State) : EncFrame s (encFlush s) := ⟨rfl⟩

theorem appendU8_frame (b : Byte) (s : State) : EncFrame s (appendU8 b s) := by
  unfold appendU8
  dsimp only
  split <;> exact ⟨rfl⟩

theorem appendBuf_frame (bytes : List Byte) (s : State) : EncFrame s (appendBuf bytes s) := by
  induction bytes generalizing s with
  | nil => exact .refl s
  | cons b rest ih => exact (appendU8_frame b s).trans (ih _)

/-! ## The decoder -/

/-- Everything one step of the decoder can be. -/
theorem readFrameStep_cases (got : List Byte) (s : State) :
    (decWant s.dec < got.length ∧ readFrameStep got s = .refused .readReportsTooMuch) ∨
    (got = [] ∧ readFrameStep got s = .next (s.setRet (.codec .noData))) ∨
    (got ≠ [] ∧ got.length ≤ decWant s.dec ∧
      (decStore s.dec got).idx = decLength (decStore s.dec got) + 1 ∧
      readFrameStep got s = .next (((s.setDec { decStore s.dec got with idx := 0 }).addEvents
        (frameEvents (decStore s.dec got))).setRet (.codec .ok))) ∨
    (got ≠ [] ∧ got.length ≤ decWant s.dec ∧
      (decStore s.dec got).idx ≠ decLength (decStore s.dec got) + 1 ∧
      readFrameStep got s = .next ((s.setDec (decStore s.dec got)).setRet (.codec .ok))) := by
  by_cases hl : got.length > decWant s.dec
  · exact .inl ⟨hl, by rw [readFrameStep, if_pos hl]⟩
  · by_cases he : got = []
    · exact .inr (.inl ⟨he, by rw [readFrameStep, if_neg hl, if_pos (by simp [he])]⟩)
    · have hn : ¬ got.isEmpty = true := by simpa using he
      by_cases hi : (decStore s.dec got).idx = decLength (decStore s.dec got) + 1
      · refine .inr (.inr (.inl ⟨he, by omega, hi, ?_⟩))
        simp only [readFrameStep, if_neg hl, if_neg hn, if_pos hi]
      · refine .inr (.inr (.inr ⟨he, by omega, hi, ?_⟩))
        simp only [readFrameStep, if_neg hl, if_neg hn, if_neg hi]

@[simp] theorem decStore_idx (d : Decoder) (got : List Byte) :
    (decStore d got).idx = d.idx + got.length := rfl

@[simp] theorem decStore_bound (d : Decoder) (got : List Byte) :
    (decStore d got).bound = d.bound := rfl

/-- A read that stays within the buffer keeps its 64 cells. -/
theorem decStore_buf_length (d : Decoder) (got : List Byte) (h : d.buf.length = 64)
    (hi : d.idx + got.length ≤ 64) : (decStore d got).buf.length = 64 := by
  simp [decStore]; omega

/-- A read behind the header leaves the header. -/
theorem decStore_header (d : Decoder) (got : List Byte) (h0 : d.idx ≠ 0) (hb : d.buf ≠ []) :
    (decStore d got).buf.headD 0 = d.buf.headD 0 := by
  obtain ⟨h, rest, hr⟩ := List.exists_cons_of_ne_nil hb
  obtain ⟨n, hn⟩ := Nat.exists_eq_succ_of_ne_zero h0
  simp [decStore, hr, hn]

theorem decLength_decStore (d : Decoder) (got : List Byte) (h0 : d.idx ≠ 0) (hb : d.buf ≠ []) :
    decLength (decStore d got) = decLength d := by
  rw [decLength, decStore_header d got h0 hb, decLength]

end Sys2Proof.Machine
end

