-- ==== Sys2Proof/Laws/Memory.lean ====
section
/-! SUPPORT. The laws of the byte buffers: what a write leaves alone, what it makes readable, and that
every memory operation keeps a buffer's length and its canonical form. -/

namespace Sys2Proof.Machine

open Sys2Proof

theorem cellsGet_cellsSet_ne (l : List Host.Cell) {a b : Nat} (v : Byte) (h : b ≠ a) :
    cellsGet (cellsSet l a v) b = cellsGet l b := by
  induction l with
  | nil => by_cases hv : v = 0#8 <;> simp [cellsSet, cellsGet, hv, Ne.symm h]
  | cons c rest ih =>
    obtain ⟨k, w⟩ := c
    by_cases h1 : a < k
    · by_cases hv : v = 0#8 <;> simp [cellsSet, cellsGet, h1, hv, Ne.symm h]
    · by_cases h2 : a = k
      · subst h2
        by_cases hv : v = 0#8 <;> simp [cellsSet, cellsGet, hv, Ne.symm h]
      · simp [cellsSet, cellsGet, h1, h2, ih]

/-- Below the bound of a canonical list nothing is listed. -/
theorem cellsGet_below {len lo a : Nat} {l : List Host.Cell} (h : cellsWf len lo l = true)
    (ha : a < lo) : cellsGet l a = 0 := by
  induction l generalizing lo with
  | nil => rfl
  | cons c rest ih =>
    obtain ⟨k, w⟩ := c
    simp only [cellsWf, Bool.and_eq_true, decide_eq_true_eq] at h
    have hk : k ≠ a := by omega
    simp [cellsGet, hk, ih h.2 (by omega)]

theorem cellsGet_cellsSet_self {len lo a : Nat} {l : List Host.Cell} (v : Byte)
    (h : cellsWf len lo l = true) : cellsGet (cellsSet l a v) a = v := by
  induction l generalizing lo with
  | nil => by_cases hv : v = 0#8 <;> simp [cellsSet, cellsGet, hv]
  | cons c rest ih =>
    obtain ⟨k, w⟩ := c
    simp only [cellsWf, Bool.and_eq_true, decide_eq_true_eq] at h
    by_cases h1 : a < k
    · by_cases hv : v = 0#8
      · have hk : k ≠ a := by omega
        simp [cellsSet, cellsGet, h1, hv, hk, cellsGet_below h.2 (show a < k + 1 by omega)]
      · simp [cellsSet, cellsGet, h1, hv]
    · by_cases h2 : a = k
      · subst h2
        by_cases hv : v = 0#8
        · simp [cellsSet, hv, cellsGet_below h.2 (show a < a + 1 by omega)]
        · simp [cellsSet, cellsGet, hv]
      · simp [cellsSet, cellsGet, h1, h2, Ne.symm h2, ih h.2]

theorem cellsWf_mono {len lo lo' : Nat} {l : List Host.Cell} (h : cellsWf len lo l = true)
    (hl : lo' ≤ lo) : cellsWf len lo' l = true := by
  cases l with
  | nil => rfl
  | cons c rest =>
    obtain ⟨k, w⟩ := c
    simp only [cellsWf, Bool.and_eq_true, decide_eq_true_eq] at h ⊢
    exact ⟨⟨⟨by omega, h.1.1.2⟩, h.1.2⟩, h.2⟩

/-- A canonical list stays canonical in a longer buffer. -/
theorem cellsWf_mono_len {len len' lo : Nat} {l : List Host.Cell} (h : cellsWf len lo l = true)
    (hl : len ≤ len') : cellsWf len' lo l = true := by
  induction l generalizing lo with
  | nil => rfl
  | cons c rest ih =>
    obtain ⟨k, w⟩ := c
    simp only [cellsWf, Bool.and_eq_true, decide_eq_true_eq] at h ⊢
    exact ⟨⟨⟨h.1.1.1, by omega⟩, h.1.2⟩, ih h.2⟩

/-- Writing a byte keeps the canonical form. -/
theorem cellsWf_cellsSet {len lo a : Nat} {l : List Host.Cell} (v : Byte)
    (h : cellsWf len lo l = true) (hlo : lo ≤ a) (ha : a < len) :
    cellsWf len lo (cellsSet l a v) = true := by
  induction l generalizing lo with
  | nil => by_cases hv : v = 0#8 <;> simp [cellsSet, cellsWf, hv, hlo, ha]
  | cons c rest ih =>
    obtain ⟨k, w⟩ := c
    have h' := h
    simp only [cellsWf, Bool.and_eq_true, decide_eq_true_eq] at h
    by_cases h1 : a < k
    · by_cases hv : v = 0#8
      · simp [cellsSet, h1, hv, h']
      · have hk : a + 1 ≤ k := h1
        simp [cellsSet, cellsWf, h1, hv, hlo, ha, hk, h.1.1.2, h.2]
        simpa using h.1.2
    · by_cases h2 : a = k
      · subst h2
        by_cases hv : v = 0#8
        · simp [cellsSet, hv, cellsWf_mono h.2 (show lo ≤ a + 1 by omega)]
        · simp [cellsSet, cellsWf, hv, hlo, ha, h.2]
      · simp [cellsSet, cellsWf, h1, h2, h.1.1.1, h.1.1.2, ih h.2 (by omega)]
        simpa using h.1.2

@[simp] theorem Buffer.set_len (b : Buffer) (a : Nat) (v : Byte) :
    (Buffer.set b a v).len = b.len := by
  unfold Buffer.set; split <;> rfl

theorem Buffer.get_set_ne (b : Buffer) {a c : Nat} (v : Byte) (h : c ≠ a) :
    Buffer.get (Buffer.set b a v) c = Buffer.get b c := by
  unfold Buffer.set Buffer.get
  split
  · exact cellsGet_cellsSet_ne _ _ h
  · rfl

theorem Buffer.get_set_self {b : Buffer} {a : Nat} (v : Byte) (hb : b.wf = true)
    (ha : a < b.len) : Buffer.get (Buffer.set b a v) a = v := by
  simp only [Buffer.wf, Bool.and_eq_true] at hb
  simp [Buffer.set, Buffer.get, ha, cellsGet_cellsSet_self v hb.2]

theorem Buffer.wf_set {b : Buffer} (a : Nat) (v : Byte) (hb : b.wf = true) :
    (Buffer.set b a v).wf = true := by
  unfold Buffer.set
  split
  · rename_i ha
    simp only [Buffer.wf, Bool.and_eq_true] at hb ⊢
    exact ⟨hb.1, cellsWf_cellsSet v hb.2 (Nat.zero_le a) ha⟩
  · exact hb

@[simp] theorem bytesAt_length (b : Buffer) (a n : Nat) : (bytesAt b a n).length = n := by
  induction n generalizing a with
  | zero => rfl
  | succ n ih => simp [bytesAt, ih]

theorem bytesAt_getElem? (b : Buffer) (a n i : Nat) (h : i < n) :
    (bytesAt b a n)[i]? = some (Buffer.get b (a + i)) := by
  induction n generalizing a i with
  | zero => omega
  | succ n ih =>
    cases i with
    | zero => simp [bytesAt]
    | succ i =>
      have := ih (a + 1) i (by omega)
      simp only [bytesAt, List.getElem?_cons_succ, this]
      congr 2; omega

@[simp] theorem writeBytes_len (b : Buffer) (a : Nat) (bs : List Byte) :
    (writeBytes b a bs).len = b.len := by
  induction bs generalizing b a with
  | nil => rfl
  | cons v rest ih => simp [writeBytes, ih]

theorem wf_writeBytes {b : Buffer} (a : Nat) (bs : List Byte) (hb : b.wf = true) :
    (writeBytes b a bs).wf = true := by
  induction bs generalizing b a with
  | nil => exact hb
  | cons v rest ih => exact ih (a + 1) (Buffer.wf_set a v hb)

/-- A write of several bytes leaves every other address alone. -/
theorem get_writeBytes_outside (b : Buffer) {a c : Nat} (bs : List Byte)
    (h : c < a ∨ a + bs.length ≤ c) : Buffer.get (writeBytes b a bs) c = Buffer.get b c := by
  induction bs generalizing b a with
  | nil => rfl
  | cons v rest ih =>
    simp only [List.length_cons] at h
    rw [writeBytes, ih _ (by omega), Buffer.get_set_ne _ _ (by omega)]

/-- A write of several bytes makes each of them readable. -/
theorem get_writeBytes_inside {b : Buffer} {a i : Nat} {bs : List Byte} {v : Byte}
    (hb : b.wf = true) (hlen : a + bs.length ≤ b.len) (hv : bs[i]? = some v) :
    Buffer.get (writeBytes b a bs) (a + i) = v := by
  induction bs generalizing b a i with
  | nil => simp at hv
  | cons w rest ih =>
    simp only [List.length_cons] at hlen
    cases i with
    | zero =>
      simp only [List.getElem?_cons_zero, Option.some.injEq] at hv
      subst hv
      rw [writeBytes, get_writeBytes_outside _ _ (by omega), Nat.add_zero,
        Buffer.get_set_self _ hb (by omega)]
    | succ i =>
      have := @ih (Buffer.set b a w) (a + 1) i (Buffer.wf_set a w hb) (by simp; omega)
        (by simpa using hv)
      rw [writeBytes, ← this]; congr 1; omega

@[simp] theorem copyFrom_len (src dst : Buffer) (d s n : Nat) :
    (copyFrom src dst d s n).len = dst.len := by
  induction n generalizing dst d s with
  | zero => rfl
  | succ n ih => simp [copyFrom, ih]

theorem wf_copyFrom (src : Buffer) {dst : Buffer} (d s n : Nat) (hb : dst.wf = true) :
    (copyFrom src dst d s n).wf = true := by
  induction n generalizing dst d s with
  | zero => exact hb
  | succ n ih => exact ih (d + 1) (s + 1) (Buffer.wf_set _ _ hb)

/-- A copy from another buffer leaves every address outside the destination alone. -/
theorem get_copyFrom_outside (src dst : Buffer) {d s n c : Nat} (h : c < d ∨ d + n ≤ c) :
    Buffer.get (copyFrom src dst d s n) c = Buffer.get dst c := by
  induction n generalizing dst d s with
  | zero => rfl
  | succ n ih => rw [copyFrom, ih _ (by omega), Buffer.get_set_ne _ _ (by omega)]

/-- A copy from another buffer copies every byte. -/
theorem get_copyFrom_inside (src : Buffer) {dst : Buffer} {d s n i : Nat} (hb : dst.wf = true)
    (hlen : d + n ≤ dst.len) (hi : i < n) :
    Buffer.get (copyFrom src dst d s n) (d + i) = Buffer.get src (s + i) := by
  induction n generalizing dst d s i with
  | zero => omega
  | succ n ih =>
    cases i with
    | zero =>
      rw [copyFrom, get_copyFrom_outside _ _ (by omega), Nat.add_zero,
        Buffer.get_set_self _ hb (by omega), Nat.add_zero]
    | succ i =>
      have := @ih (Buffer.set dst d (Buffer.get src s)) (d + 1) (s + 1) i
        (Buffer.wf_set _ _ hb) (by simp; omega) (by omega)
      rw [copyFrom, show d + (i + 1) = d + 1 + i by omega, this]; congr 1; omega

@[simp] theorem copyWithin_len (b : Buffer) (d s n : Nat) : (copyWithin b d s n).len = b.len := by
  induction n generalizing b d s with
  | zero => rfl
  | succ n ih => simp [copyWithin, ih]

theorem wf_copyWithin {b : Buffer} (d s n : Nat) (hb : b.wf = true) :
    (copyWithin b d s n).wf = true := by
  induction n generalizing b d s with
  | zero => exact hb
  | succ n ih => exact ih (d + 1) (s + 1) (Buffer.wf_set _ _ hb)

/-- A copy within a buffer leaves every address outside the destination alone. -/
theorem get_copyWithin_outside (b : Buffer) {d s n c : Nat} (h : c < d ∨ d + n ≤ c) :
    Buffer.get (copyWithin b d s n) c = Buffer.get b c := by
  induction n generalizing b d s with
  | zero => rfl
  | succ n ih => rw [copyWithin, ih _ (by omega), Buffer.get_set_ne _ _ (by omega)]

/-- One iteration at a time: the first byte copied is the source's first byte (unless the copy goes
over it again, which it does not). -/
theorem get_copyWithin_first {b : Buffer} {d s n : Nat} (hb : b.wf = true) (hd : d < b.len) :
    Buffer.get (copyWithin b d s (n + 1)) d = Buffer.get b s := by
  rw [copyWithin, get_copyWithin_outside _ (by omega), Buffer.get_set_self _ hb hd]

end Sys2Proof.Machine
end

