-- ==== Sys2Proof/Laws/Ops.lean ====
section
/-! SUPPORT. For each shared operation, what it answers, case by case, so that callers cite these
lemmas and do not unfold the operation. -/

namespace Sys2Proof.Machine

open Sys2Proof

/-! ## Sequencing -/

@[simp] theorem Res.ok_andThen {α β : Type} (a : α) (s : State) (k : α → State → Res β) :
    (Res.ok a s).andThen k = k a s := rfl

@[simp] theorem Res.raised_andThen {α β : Type} (s : State) (k : α → State → Res β) :
    (Res.raised s : Res α).andThen k = .raised s := rfl

@[simp] theorem Res.ok_outcome (s : State) : (Res.ok () s).outcome = .next s := rfl

@[simp] theorem Res.raised_outcome (s : State) : (Res.raised s : Res Unit).outcome = .next s := rfl

/-! ## Taking a fault -/

@[simp] theorem raise_err (c : ErrCode) (s : State) : (raise c s).err = c := rfl

@[simp] theorem raise_ip (c : ErrCode) (s : State) : (raise c s).ip = s.ip := rfl

@[simp] theorem raise_sp (c : ErrCode) (s : State) : (raise c s).sp = s.sp := rfl

@[simp] theorem raise_stack (c : ErrCode) (s : State) : (raise c s).stack = s.stack := rfl

@[simp] theorem raise_program (c : ErrCode) (s : State) : (raise c s).program = s.program := rfl

@[simp] theorem raise_data (c : ErrCode) (s : State) : (raise c s).data = s.data := rfl

@[simp] theorem raise_hook (c : ErrCode) (s : State) : (raise c s).hook = s.hook := rfl

@[simp] theorem raise_enc (c : ErrCode) (s : State) : (raise c s).enc = s.enc := rfl

@[simp] theorem raise_dec (c : ErrCode) (s : State) : (raise c s).dec = s.dec := rfl

@[simp] theorem raise_budget (c : ErrCode) (s : State) : (raise c s).budget = s.budget := rfl

@[simp] theorem raise_calls (c : ErrCode) (s : State) : (raise c s).calls = s.calls := rfl

@[simp] theorem raise_hookRuns (c : ErrCode) (s : State) : (raise c s).hookRuns = s.hookRuns := rfl

@[simp] theorem raise_hookCount (c : ErrCode) (s : State) : (raise c s).hookCount = s.hookCount := rfl

@[simp] theorem raise_ret (c : ErrCode) (s : State) : (raise c s).ret = s.ret := rfl

@[simp] theorem raise_frames (c : ErrCode) (s : State) : (raise c s).frames = s.frames := rfl

@[simp] theorem raise_events (c : ErrCode) (s : State) : (raise c s).events = s.events := rfl

/-! ## Live values -/

theorem live_nil_iff (s : State) : s.live = [] ↔ s.stack[s.sp]? = none := by
  simp [State.live]

/-- The live values begin with the cell at `sp`. -/
theorem live_cons {s : State} {y : Word} {rest : List Word} (h : s.live = y :: rest) :
    s.stack[s.sp]? = some y ∧ s.stack.drop (s.sp + 1) = rest := by
  have h0 : (s.stack.drop s.sp)[0]? = some y := by
    rw [show s.stack.drop s.sp = y :: rest from h]; rfl
  have h1 : (s.stack.drop s.sp).drop 1 = rest := by
    rw [show s.stack.drop s.sp = y :: rest from h]; rfl
  simp only [List.getElem?_drop, List.drop_drop, Nat.add_zero] at h0 h1
  exact ⟨h0, h1⟩

/-- The cells under the top. -/
theorem live_getElem? (s : State) (i : Nat) : s.live[i]? = s.stack[s.sp + i]? := by
  simp [State.live]

/-- A live top keeps `sp` below the capacity. -/
theorem sp_lt_of_getElem? {s : State} {i : Nat} {v : Word} (h : s.stack[i]? = some v) :
    i < s.stack.length := by
  by_contra hn
  simp [List.getElem?_eq_none (Nat.le_of_not_lt hn)] at h

/-! ## Push and Pop -/

theorem pop_of_live {s : State} {v : Word} (h : s.stack[s.sp]? = some v) :
    pop s = .ok v (s.setSp (s.sp + 1)) := by
  simp [pop, h]

theorem pop_of_empty {s : State} (h : s.stack[s.sp]? = none) :
    pop s = .raised (raise .stackEmpty s) := by
  simp [pop, h]

theorem push_of_full {s : State} (v : Word) (h : s.sp = 0) :
    push v s = .raised (raise .stackFull s) := by
  simp [push, h]

theorem push_of_room {s : State} (v : Word) (h : s.sp ≠ 0) :
    push v s = .ok () ((s.setSp (s.sp - 1)).setCell (s.sp - 1) v) := by
  simp [push, h]

/-- Everything `Pop` can do. -/
theorem pop_cases (s : State) :
    (∃ v, s.stack[s.sp]? = some v ∧ pop s = .ok v (s.setSp (s.sp + 1))) ∨
    (s.stack[s.sp]? = none ∧ pop s = .raised (raise .stackEmpty s)) := by
  cases h : s.stack[s.sp]? with
  | none => exact .inr ⟨rfl, pop_of_empty h⟩
  | some v => exact .inl ⟨v, rfl, pop_of_live h⟩

/-- Everything `Push` can do. -/
theorem push_cases (v : Word) (s : State) :
    (s.sp ≠ 0 ∧ push v s = .ok () ((s.setSp (s.sp - 1)).setCell (s.sp - 1) v)) ∨
    (s.sp = 0 ∧ push v s = .raised (raise .stackFull s)) := by
  by_cases h : s.sp = 0
  · exact .inr ⟨h, push_of_full v h⟩
  · exact .inl ⟨h, push_of_room v h⟩

/-- A push right after a pop writes the popped cell. -/
theorem push_after_pop (s : State) (n : Nat) (v : Word) :
    push v (s.setSp (n + 1)) = .ok () ((s.setSp n).setCell n v) := by
  rw [push_of_room v (by simp)]; rfl

/-! ## Memory primitives -/

theorem memRead_of_inBounds {a : Word} {w : Width} {s : State}
    (h : InBounds a (widthBytes w) s.data.len) :
    memRead a w s = .ok (leWord (bytesAt s.data a.toNat (widthBytes w))) s := if_pos h

theorem memRead_of_not_inBounds {a : Word} {w : Width} {s : State}
    (h : ¬ InBounds a (widthBytes w) s.data.len) :
    memRead a w s = .raised (raise .dataAddressOutOfBounds s) := if_neg h

theorem memWrite_of_inBounds {a : Word} {w : Width} {v : Word} {s : State}
    (h : InBounds a (widthBytes w) s.data.len) :
    memWrite a w v s =
      .ok () (s.setData (writeBytes s.data a.toNat (wordBytes (widthBytes w) v))) := if_pos h

theorem memWrite_of_not_inBounds {a : Word} {w : Width} {v : Word} {s : State}
    (h : ¬ InBounds a (widthBytes w) s.data.len) :
    memWrite a w v s = .raised (raise .dataAddressOutOfBounds s) := if_neg h

/-! ## The designated operand -/

/-- How many cells the designated operand takes from the stack. -/
def Operand.slots : Operand → Nat
  | .popped => 1
  | .imm _ => 0

/-- The designated operand's value, where there is one. -/
def Operand.value (o : Operand) (s : State) : Option Word :=
  match o with
  | .popped => s.stack[s.sp]?
  | .imm v => some v

@[simp] theorem Operand.slots_popped : Operand.popped.slots = 1 := rfl

@[simp] theorem Operand.slots_imm (v : Word) : (Operand.imm v).slots = 0 := rfl

@[simp] theorem Operand.slots_zeroImm {n : Nat} (raw : BitVec n) : (zeroImm raw).slots = 0 := rfl

@[simp] theorem Operand.slots_signImm {n : Nat} (raw : BitVec n) : (signImm raw).slots = 0 := rfl

@[simp] theorem Operand.value_popped (s : State) : Operand.popped.value s = s.stack[s.sp]? := rfl

@[simp] theorem Operand.value_imm (v : Word) (s : State) : (Operand.imm v).value s = some v := rfl

@[simp] theorem Operand.value_zeroImm {n : Nat} (raw : BitVec n) (s : State) :
    (zeroImm raw).value s = some (raw.setWidth 32) := rfl

@[simp] theorem Operand.value_signImm {n : Nat} (raw : BitVec n) (s : State) :
    (signImm raw).value s = some (raw.signExtend 32) := rfl

theorem take_of_value {o : Operand} {s : State} {v : Word} (h : o.value s = some v) :
    o.take s = .ok v (s.setSp (s.sp + o.slots)) := by
  cases o with
  | popped => exact pop_of_live h
  | imm w =>
    simp only [Operand.value_imm, Option.some.injEq] at h
    subst h; rfl

theorem take_of_none {o : Operand} {s : State} (h : o.value s = none) :
    o.take s = .raised (raise .stackEmpty s) := by
  cases o with
  | popped => exact pop_of_empty h
  | imm w => simp at h

/-- Everything taking the designated operand can do. -/
theorem take_cases (o : Operand) (s : State) :
    (∃ v, o.value s = some v ∧ o.take s = .ok v (s.setSp (s.sp + o.slots))) ∨
    (o.value s = none ∧ o.take s = .raised (raise .stackEmpty s)) := by
  cases h : o.value s with
  | none => exact .inr ⟨rfl, take_of_none h⟩
  | some v => exact .inl ⟨v, rfl, take_of_value h⟩

/-! ## What an operation leaves alone -/

/-- What every operation of an instruction other than a hook call leaves alone: all but `ip`, `sp`, the
cells' contents, `err` and the data bytes. -/
structure CoreFrame (s t : State) : Prop where
  program : t.program = s.program
  hook : t.hook = s.hook
  dataLen : t.data.len = s.data.len
  stackLen : t.stack.length = s.stack.length
  enc : t.enc = s.enc
  dec : t.dec = s.dec
  budget : t.budget = s.budget
  calls : t.calls = s.calls
  ret : t.ret = s.ret
  frames : t.frames = s.frames
  events : t.events = s.events

theorem CoreFrame.refl (s : State) : CoreFrame s s :=
  ⟨rfl, rfl, rfl, rfl, rfl, rfl, rfl, rfl, rfl, rfl, rfl⟩

theorem CoreFrame.trans {s t u : State} (h : CoreFrame s t) (k : CoreFrame t u) : CoreFrame s u :=
  ⟨k.1.trans h.1, k.2.trans h.2, k.3.trans h.3, k.4.trans h.4, k.5.trans h.5, k.6.trans h.6,
   k.7.trans h.7, k.8.trans h.8, k.9.trans h.9, k.10.trans h.10, k.11.trans h.11⟩

theorem CoreFrame.setIp (s : State) (v : Word) : CoreFrame s (s.setIp v) :=
  ⟨rfl, rfl, rfl, rfl, rfl, rfl, rfl, rfl, rfl, rfl, rfl⟩

theorem CoreFrame.setSp (s : State) (n : Nat) : CoreFrame s (s.setSp n) :=
  ⟨rfl, rfl, rfl, rfl, rfl, rfl, rfl, rfl, rfl, rfl, rfl⟩

theorem CoreFrame.setCell (s : State) (i : Nat) (v : Word) : CoreFrame s (s.setCell i v) :=
  ⟨rfl, rfl, rfl, by simp, rfl, rfl, rfl, rfl, rfl, rfl, rfl⟩

theorem CoreFrame.raise (c : ErrCode) (s : State) : CoreFrame s (raise c s) :=
  ⟨rfl, rfl, rfl, rfl, rfl, rfl, rfl, rfl, rfl, rfl, rfl⟩

theorem CoreFrame.setData (s : State) {d : Buffer} (h : d.len = s.data.len) :
    CoreFrame s (s.setData d) :=
  ⟨rfl, rfl, h, rfl, rfl, rfl, rfl, rfl, rfl, rfl, rfl⟩

theorem CoreFrame.setHookRuns (s : State) (rs : List (List HookAct)) :
    CoreFrame s (s.setHookRuns rs) :=
  ⟨rfl, rfl, rfl, rfl, rfl, rfl, rfl, rfl, rfl, rfl, rfl⟩

/-- The invariant of the VM core passes to a state that differs in what an instruction may write, as
long as `sp` stays in range and the data memory canonical. -/
theorem CoreFrame.vmInv {s t : State} (h : CoreFrame s t) (hs : s.VmInv)
    (hsp : t.sp ≤ t.stack.length) (hd : t.data.wf = true) : t.VmInv :=
  ⟨hsp, h.stackLen ▸ hs.2.1, h.stackLen ▸ hs.2.2.1, h.program ▸ hs.2.2.2.1, hd⟩

/-- Every state an operation ends in, whether or not it raised a fault, satisfies `P`. -/
def Res.All {α : Type} (P : State → Prop) : Res α → Prop
  | .ok _ s => P s
  | .raised s => P s

theorem Res.All.andThen {α β : Type} {P : State → Prop} {r : Res α} {k : α → State → Res β}
    (hr : r.All P) (hk : ∀ a s, P s → (k a s).All P) : (r.andThen k).All P := by
  cases r with
  | ok a s => exact hk a s hr
  | raised s => exact hr

theorem Res.All.outcome {P : State → Prop} {r : Res Unit} (h : r.All P) :
    ∃ t, r.outcome = .next t ∧ P t := by
  cases r with
  | ok a s => exact ⟨s, rfl, h⟩
  | raised s => exact ⟨s, rfl, h⟩

/-- An operation keeps a property of states. -/
def Keeps {α : Type} (P : State → Prop) (f : State → Res α) : Prop := ∀ s, P s → (f s).All P

/-- What the core's operations keep: the frame from a starting state, and its invariant. -/
def CoreKept (s0 t : State) : Prop := CoreFrame s0 t ∧ (s0.VmInv → t.VmInv)

theorem CoreKept.refl (s : State) : CoreKept s s := ⟨.refl s, id⟩

theorem CoreKept.raise {s0 s : State} (c : ErrCode) (h : CoreKept s0 s) :
    CoreKept s0 (Machine.raise c s) :=
  ⟨h.1.trans (.raise c s), h.2⟩

theorem CoreKept.setIp {s0 s : State} (v : Word) (h : CoreKept s0 s) : CoreKept s0 (s.setIp v) :=
  ⟨h.1.trans (.setIp s v), h.2⟩

theorem CoreKept.setData {s0 s : State} {d : Buffer} (h : CoreKept s0 s)
    (hl : d.len = s.data.len) (hw : s.data.wf = true → d.wf = true) :
    CoreKept s0 (s.setData d) :=
  ⟨h.1.trans (.setData s hl), fun hi =>
    ⟨(h.2 hi).1, (h.2 hi).2.1, (h.2 hi).2.2.1, (h.2 hi).2.2.2.1, hw (h.2 hi).2.2.2.2⟩⟩

theorem pop_kept (s0 : State) : Keeps (CoreKept s0) pop := by
  intro s h
  obtain ⟨v, hv, hp⟩ | ⟨-, hp⟩ := pop_cases s <;> rw [hp]
  · refine ⟨h.1.trans (.setSp s _), fun hi => ?_⟩
    have := sp_lt_of_getElem? hv
    exact ⟨by simp; omega, (h.2 hi).2.1, (h.2 hi).2.2.1, (h.2 hi).2.2.2.1, (h.2 hi).2.2.2.2⟩
  · exact h.raise _

theorem push_kept (s0 : State) (v : Word) : Keeps (CoreKept s0) (push v) := by
  intro s h
  obtain ⟨-, hp⟩ | ⟨-, hp⟩ := push_cases v s <;> rw [hp]
  · refine ⟨(h.1.trans (.setSp s _)).trans (.setCell _ _ _), fun hi => ?_⟩
    have := (h.2 hi).1
    exact ⟨by simp; omega, by simpa using (h.2 hi).2.1, by simpa using (h.2 hi).2.2.1,
      (h.2 hi).2.2.2.1, (h.2 hi).2.2.2.2⟩
  · exact h.raise _

theorem take_kept (s0 : State) (o : Operand) : Keeps (CoreKept s0) o.take := by
  cases o with
  | popped => exact pop_kept s0
  | imm v => exact fun s h => h

theorem memRead_kept (s0 : State) (a : Word) (w : Width) : Keeps (CoreKept s0) (memRead a w) := by
  intro s h
  by_cases hb : InBounds a (widthBytes w) s.data.len
  · rw [memRead_of_inBounds hb]; exact h
  · rw [memRead_of_not_inBounds hb]; exact h.raise _

theorem memWrite_kept (s0 : State) (a : Word) (w : Width) (v : Word) :
    Keeps (CoreKept s0) (memWrite a w v) := by
  intro s h
  by_cases hb : InBounds a (widthBytes w) s.data.len
  · rw [memWrite_of_inBounds hb]; exact h.setData (by simp) (wf_writeBytes _ _)
  · rw [memWrite_of_not_inBounds hb]; exact h.raise _

end Sys2Proof.Machine
end

