-- ==== Sys2Proof/Laws/Cycle.lean ====
section
/-! SUPPORT. What one step of the machine can be, case by case: the host's turn, a fetch that fails, bytes
that decode to an instruction or to none, and what the loop of `exec` adds. -/

namespace Sys2Proof.Machine

open Sys2Proof

variable {s t : State} {bytes after : List Byte} {i : Instr}

/-! ## Whose turn it is -/

theorem step_of_control (h : s.budget = 0) : step s = hostTurn s := if_pos h

theorem step_of_running (h : s.budget ≠ 0) (hr : s.Ready) :
    step s = closeOutcome (runInstruction s) := by
  rw [step, if_neg h, execTurn, if_neg (by simpa using hr)]

theorem step_of_latched (h : s.budget ≠ 0) (hf : s.Faulted) :
    step s = .next (closeInstruction s) := by
  rw [step, if_neg h, execTurn, if_pos hf]

theorem hostTurn_of_call {c : HostCall} {rest : List HostCall} (h : s.calls = c :: rest) :
    hostTurn s = hostCall c (s.setCalls rest) := by
  simp [hostTurn, h]

theorem hostTurn_of_none (h : s.calls = []) : hostTurn s = .next s := by
  simp [hostTurn, h]

/-! ## Fetch -/

/-- Everything the fetch can do: the bound on the last immediate byte implies the one on the opcode. -/
theorem fetch_cases (s : State) :
    (s.ip.toNat + 1 + immLength (Buffer.get s.program s.ip.toNat) ≤ s.program.len ∧
      fetch s = some (Buffer.get s.program s.ip.toNat ::
        bytesAt s.program (s.ip.toNat + 1) (immLength (Buffer.get s.program s.ip.toNat)))) ∨
    (s.program.len < s.ip.toNat + 1 + immLength (Buffer.get s.program s.ip.toNat) ∧
      fetch s = none) := by
  by_cases h : s.ip.toNat + 1 + immLength (Buffer.get s.program s.ip.toNat) ≤ s.program.len
  · refine .inl ⟨h, ?_⟩
    have h1 : InBounds s.ip 1 s.program.len := by simp only [InBounds]; omega
    simp only [fetch, if_pos h1, if_pos h]
  · refine .inr ⟨by omega, ?_⟩
    simp only [fetch, if_neg h, ite_self]

theorem fetch_of_room
    (h : s.ip.toNat + 1 + immLength (Buffer.get s.program s.ip.toNat) ≤ s.program.len) :
    fetch s = some (Buffer.get s.program s.ip.toNat ::
      bytesAt s.program (s.ip.toNat + 1) (immLength (Buffer.get s.program s.ip.toNat))) := by
  obtain ⟨-, hf⟩ | ⟨hn, -⟩ := fetch_cases s
  · exact hf
  · omega

theorem fetch_of_no_room
    (h : s.program.len < s.ip.toNat + 1 + immLength (Buffer.get s.program s.ip.toNat)) :
    fetch s = none := by
  obtain ⟨hn, -⟩ | ⟨-, hf⟩ := fetch_cases s
  · omega
  · exact hf

/-! ## One instruction -/

theorem runInstruction_of_no_fetch (h : fetch s = none) :
    runInstruction s = .next (raise .programAddressOutOfBounds s) := by
  simp only [runInstruction, h]

theorem runInstruction_of_instr (h : fetch s = some bytes) (hd : decode bytes = .instr i after) :
    runInstruction s = exec i (commit bytes s) := by
  simp only [runInstruction, h, hd]

theorem runInstruction_of_rejected {r : DecodeReject} (h : fetch s = some bytes)
    (hd : decode bytes = .rejected r) :
    runInstruction s = .next (raise .badOpcode (commit bytes s)) := by
  simp only [runInstruction, h, hd]

/-- Everything one instruction cycle can be. -/
theorem runInstruction_cases (s : State) :
    runInstruction s = .next (raise .programAddressOutOfBounds s) ∨
    (∃ bytes, fetch s = some bytes ∧
      runInstruction s = .next (raise .badOpcode (commit bytes s))) ∨
    ∃ bytes i after, fetch s = some bytes ∧ decode bytes = .instr i after ∧
      runInstruction s = exec i (commit bytes s) := by
  cases hf : fetch s with
  | none => exact .inl (runInstruction_of_no_fetch hf)
  | some bytes =>
    cases hd : decode bytes with
    | instr i after => exact .inr (.inr ⟨bytes, i, after, rfl, hd, runInstruction_of_instr hf hd⟩)
    | rejected r => exact .inr (.inl ⟨bytes, rfl, runInstruction_of_rejected hf hd⟩)

/-! ## The end of a turn of `exec` -/

theorem closeOutcome_next (t : State) : closeOutcome (.next t) = .next (closeInstruction t) := rfl

/-- What closing an instruction can be: back to the host with the latched code, back to the host with the
budget used up, or on with one instruction less. -/
theorem closeInstruction_cases (s : State) :
    (s.Faulted ∧ closeInstruction s = (s.setBudget 0).setRet (.err s.err)) ∨
    (s.Ready ∧ s.budget ≤ 1 ∧ closeInstruction s = (s.setBudget 0).setRet (.err .success)) ∨
    (s.Ready ∧ 1 < s.budget ∧ closeInstruction s = s.setBudget (s.budget - 1)) := by
  by_cases h : s.err = .success
  · by_cases hb : s.budget ≤ 1
    · exact .inr (.inl ⟨h, hb, by simp [closeInstruction, h, hb]⟩)
    · exact .inr (.inr ⟨h, by omega, by simp [closeInstruction, h, hb]⟩)
  · exact .inl ⟨h, by simp [closeInstruction, h]⟩

/-- A step that answers a next state, taken apart. -/
theorem step_running_next (h : s.budget ≠ 0) (hr : s.Ready) (hs : step s = .next t) :
    ∃ u, runInstruction s = .next u ∧ t = closeInstruction u := by
  rw [step_of_running h hr] at hs
  cases hu : runInstruction s with
  | next u =>
    rw [hu, closeOutcome_next, Host.Outcome.next.injEq] at hs
    exact ⟨u, rfl, hs.symm⟩
  | fault r => simp [hu, closeOutcome] at hs
  | refused r => simp [hu, closeOutcome] at hs

/-! ## The host's calls -/

@[simp] theorem returnCodec_next (r : State × CodecResult) :
    returnCodec r = .next (r.1.setRet (.codec r.2)) := rfl

theorem withEncoder_of_bound (f : State → State × CodecResult) (h : s.enc.bound = true) :
    withEncoder f s = .next ((f s).1.setRet (.codec (f s).2)) := by
  simp [withEncoder, h]

theorem withEncoder_of_unbound (f : State → State × CodecResult) (h : s.enc.bound = false) :
    withEncoder f s = .refused .encoderNotInitialised := by
  simp [withEncoder, h]

/-- A host write of a data byte that exists. -/
theorem hostWriteData_of_inside {a : Nat} (b : Byte) (h : a < s.data.len) :
    hostWriteData a b s = .next ((s.setData (Buffer.set s.data a b)).setRet .nothing) := if_pos h

theorem hostWriteData_of_outside {a : Nat} (b : Byte) (h : s.data.len ≤ a) :
    hostWriteData a b s = .refused .hostWritesOutsideData := if_neg (by omega)

/-- What an inspection can be: it returns a value and changes nothing else, or names nothing. -/
theorem hostInspect_cases (what : Inspected) (s : State) :
    (∃ r, hostInspect what s = .next (s.setRet r)) ∨
    (∃ i, what = .cell i ∧ s.stack.length ≤ i ∧ hostInspect what s = .refused .hostReadsNoCell) ∨
    (∃ a, what = .dataByte a ∧ s.data.len ≤ a ∧
      hostInspect what s = .refused .hostReadsOutsideData) := by
  cases what with
  | ip => exact .inl ⟨_, rfl⟩
  | sp => exact .inl ⟨_, rfl⟩
  | err => exact .inl ⟨_, rfl⟩
  | cell i =>
    cases hv : s.stack[i]? with
    | some v => exact .inl ⟨.word v, by simp only [hostInspect, hv]⟩
    | none => exact .inr (.inl ⟨i, rfl, List.getElem?_eq_none_iff.1 hv, by simp only [hostInspect, hv]⟩)
  | dataByte a =>
    by_cases h : a < s.data.len
    · exact .inl ⟨_, if_pos h⟩
    · exact .inr (.inr ⟨a, rfl, by omega, if_neg h⟩)

/-- What opening an `exec` call can be. -/
theorem openExec_cases (count : Word) (s : State) :
    (s.Faulted ∧ openExec count s = s.setRet (.err s.err)) ∨
    (s.Ready ∧ count = 0 ∧ openExec count s = s.setRet (.err .success)) ∨
    (s.Ready ∧ count ≠ 0 ∧ openExec count s = s.setBudget count.toNat) := by
  have hz : count.toNat = 0 ↔ count = 0 := by rw [← BitVec.toNat_inj]; rfl
  by_cases h : s.err = .success
  · by_cases hc : count = 0
    · exact .inr (.inl ⟨h, hc, by simp [openExec, h, hc]⟩)
    · exact .inr (.inr ⟨h, hc, by rw [openExec, if_neg (by simpa using h), if_neg (mt hz.1 hc)]⟩)
  · exact .inl ⟨h, by simp [openExec, h]⟩

/-! ## Several steps -/

theorem run_zero (s : State) : Sys2Proof.core.run 0 s = .next s := rfl

theorem run_succ_of_next (k : Nat) (h : step s = .next t) :
    Sys2Proof.core.run (k + 1) s = Sys2Proof.core.run k t := by
  have hc : Sys2Proof.core.step s = .next t := h
  simp only [Host.Core.run, hc]

theorem run_succ_of_fault {r : Fault} (k : Nat) (h : step s = .fault r) :
    Sys2Proof.core.run (k + 1) s = .fault r := by
  have hc : Sys2Proof.core.step s = .fault r := h
  simp only [Host.Core.run, hc]

theorem run_succ_of_refused {r : Refusal} (k : Nat) (h : step s = .refused r) :
    Sys2Proof.core.run (k + 1) s = .refused r := by
  have hc : Sys2Proof.core.step s = .refused r := h
  simp only [Host.Core.run, hc]

end Sys2Proof.Machine
end

