-- ==== Sys2Proof/Laws/PerInstr.lean ====
section
/-! SUPPORT. The per-instruction family `EncodingShape`: an instruction's encoding is a legal opcode byte
followed by exactly the immediate bytes that byte's class asks for (30_encoding.md R301, R302). -/

namespace Sys2Proof.Laws

open Sys2Proof

/-- The encoding of `i` is a legal opcode byte and as many immediate bytes as its class gives. -/
def EncodingShape.Statement (i : Instr) : Prop :=
  ∃ opc imm, encode i = opc :: imm ∧ opcodeLegal opc = true ∧ imm.length = immLength opc

/-- `wordBytes` gives as many bytes as it is asked for. -/
@[simp] theorem wordBytes_length (n : Nat) (v : Word) : (wordBytes n v).length = n := by
  induction n generalizing v with
  | zero => rfl
  | succ n ih => simp [wordBytes, ih]

/-- `immBytes` gives as many bytes as it is asked for. -/
@[simp] theorem immBytes_length {m : Nat} (n : Nat) (raw : BitVec m) : (immBytes n raw).length = n :=
  wordBytes_length n _

theorem EncodingShape.halt : EncodingShape.Statement .halt := ⟨_, _, rfl, rfl, rfl⟩
theorem EncodingShape.drop : EncodingShape.Statement .drop := ⟨_, _, rfl, rfl, rfl⟩
theorem EncodingShape.dup : EncodingShape.Statement .dup := ⟨_, _, rfl, rfl, rfl⟩
theorem EncodingShape.swap : EncodingShape.Statement .swap := ⟨_, _, rfl, rfl, rfl⟩
theorem EncodingShape.add : EncodingShape.Statement .add := ⟨_, _, rfl, rfl, rfl⟩
theorem EncodingShape.sub : EncodingShape.Statement .sub := ⟨_, _, rfl, rfl, rfl⟩
theorem EncodingShape.mul : EncodingShape.Statement .mul := ⟨_, _, rfl, rfl, rfl⟩
theorem EncodingShape.and : EncodingShape.Statement .and := ⟨_, _, rfl, rfl, rfl⟩
theorem EncodingShape.or : EncodingShape.Statement .or := ⟨_, _, rfl, rfl, rfl⟩
theorem EncodingShape.xor : EncodingShape.Statement .xor := ⟨_, _, rfl, rfl, rfl⟩
theorem EncodingShape.shl : EncodingShape.Statement .shl := ⟨_, _, rfl, rfl, rfl⟩
theorem EncodingShape.shrUi : EncodingShape.Statement .shrUi := ⟨_, _, rfl, rfl, rfl⟩
theorem EncodingShape.shrSi : EncodingShape.Statement .shrSi := ⟨_, _, rfl, rfl, rfl⟩
theorem EncodingShape.not : EncodingShape.Statement .not := ⟨_, _, rfl, rfl, rfl⟩
theorem EncodingShape.neg : EncodingShape.Statement .neg := ⟨_, _, rfl, rfl, rfl⟩
theorem EncodingShape.lnot : EncodingShape.Statement .lnot := ⟨_, _, rfl, rfl, rfl⟩
theorem EncodingShape.eq : EncodingShape.Statement .eq := ⟨_, _, rfl, rfl, rfl⟩
theorem EncodingShape.ne : EncodingShape.Statement .ne := ⟨_, _, rfl, rfl, rfl⟩
theorem EncodingShape.ltUi : EncodingShape.Statement .ltUi := ⟨_, _, rfl, rfl, rfl⟩
theorem EncodingShape.leUi : EncodingShape.Statement .leUi := ⟨_, _, rfl, rfl, rfl⟩
theorem EncodingShape.gtUi : EncodingShape.Statement .gtUi := ⟨_, _, rfl, rfl, rfl⟩
theorem EncodingShape.geUi : EncodingShape.Statement .geUi := ⟨_, _, rfl, rfl, rfl⟩
theorem EncodingShape.ltSi : EncodingShape.Statement .ltSi := ⟨_, _, rfl, rfl, rfl⟩
theorem EncodingShape.leSi : EncodingShape.Statement .leSi := ⟨_, _, rfl, rfl, rfl⟩
theorem EncodingShape.gtSi : EncodingShape.Statement .gtSi := ⟨_, _, rfl, rfl, rfl⟩
theorem EncodingShape.geSi : EncodingShape.Statement .geSi := ⟨_, _, rfl, rfl, rfl⟩
theorem EncodingShape.loadU8 : EncodingShape.Statement .loadU8 := ⟨_, _, rfl, rfl, rfl⟩
theorem EncodingShape.loadU16 : EncodingShape.Statement .loadU16 := ⟨_, _, rfl, rfl, rfl⟩
theorem EncodingShape.loadU32 : EncodingShape.Statement .loadU32 := ⟨_, _, rfl, rfl, rfl⟩
theorem EncodingShape.loadS8 : EncodingShape.Statement .loadS8 := ⟨_, _, rfl, rfl, rfl⟩
theorem EncodingShape.loadS16 : EncodingShape.Statement .loadS16 := ⟨_, _, rfl, rfl, rfl⟩
theorem EncodingShape.storeU8 : EncodingShape.Statement .storeU8 := ⟨_, _, rfl, rfl, rfl⟩
theorem EncodingShape.storeU16 : EncodingShape.Statement .storeU16 := ⟨_, _, rfl, rfl, rfl⟩
theorem EncodingShape.storeU32 : EncodingShape.Statement .storeU32 := ⟨_, _, rfl, rfl, rfl⟩
theorem EncodingShape.storeU8Discard : EncodingShape.Statement .storeU8Discard := ⟨_, _, rfl, rfl, rfl⟩
theorem EncodingShape.storeU16Discard : EncodingShape.Statement .storeU16Discard := ⟨_, _, rfl, rfl, rfl⟩
theorem EncodingShape.storeU32Discard : EncodingShape.Statement .storeU32Discard := ⟨_, _, rfl, rfl, rfl⟩
theorem EncodingShape.dcopy : EncodingShape.Statement .dcopy := ⟨_, _, rfl, rfl, rfl⟩
theorem EncodingShape.pcopy : EncodingShape.Statement .pcopy := ⟨_, _, rfl, rfl, rfl⟩
theorem EncodingShape.call : EncodingShape.Statement .call := ⟨_, _, rfl, rfl, rfl⟩
theorem EncodingShape.jumpAbs : EncodingShape.Statement .jumpAbs := ⟨_, _, rfl, rfl, rfl⟩
theorem EncodingShape.jumpAbsIf : EncodingShape.Statement .jumpAbsIf := ⟨_, _, rfl, rfl, rfl⟩
theorem EncodingShape.jumpAbsIfNot : EncodingShape.Statement .jumpAbsIfNot := ⟨_, _, rfl, rfl, rfl⟩
theorem EncodingShape.jumpRel : EncodingShape.Statement .jumpRel := ⟨_, _, rfl, rfl, rfl⟩
theorem EncodingShape.jumpRelIf : EncodingShape.Statement .jumpRelIf := ⟨_, _, rfl, rfl, rfl⟩
theorem EncodingShape.jumpRelIfNot : EncodingShape.Statement .jumpRelIfNot := ⟨_, _, rfl, rfl, rfl⟩
theorem EncodingShape.syscall : EncodingShape.Statement .syscall := ⟨_, _, rfl, rfl, rfl⟩
theorem EncodingShape.pushU8 (raw : BitVec 8) : EncodingShape.Statement (.pushU8 raw) := ⟨_, _, rfl, rfl, rfl⟩
theorem EncodingShape.pushS8 (raw : BitVec 8) : EncodingShape.Statement (.pushS8 raw) := ⟨_, _, rfl, rfl, rfl⟩
theorem EncodingShape.addImm8 (raw : BitVec 8) : EncodingShape.Statement (.addImm8 raw) := ⟨_, _, rfl, rfl, rfl⟩
theorem EncodingShape.subImm8 (raw : BitVec 8) : EncodingShape.Statement (.subImm8 raw) := ⟨_, _, rfl, rfl, rfl⟩
theorem EncodingShape.mulImm8 (raw : BitVec 8) : EncodingShape.Statement (.mulImm8 raw) := ⟨_, _, rfl, rfl, rfl⟩
theorem EncodingShape.andImm8 (raw : BitVec 8) : EncodingShape.Statement (.andImm8 raw) := ⟨_, _, rfl, rfl, rfl⟩
theorem EncodingShape.orImm8 (raw : BitVec 8) : EncodingShape.Statement (.orImm8 raw) := ⟨_, _, rfl, rfl, rfl⟩
theorem EncodingShape.xorImm8 (raw : BitVec 8) : EncodingShape.Statement (.xorImm8 raw) := ⟨_, _, rfl, rfl, rfl⟩
theorem EncodingShape.shlImm8 (raw : BitVec 8) : EncodingShape.Statement (.shlImm8 raw) := ⟨_, _, rfl, rfl, rfl⟩
theorem EncodingShape.shrUiImm8 (raw : BitVec 8) : EncodingShape.Statement (.shrUiImm8 raw) := ⟨_, _, rfl, rfl, rfl⟩
theorem EncodingShape.shrSiImm8 (raw : BitVec 8) : EncodingShape.Statement (.shrSiImm8 raw) := ⟨_, _, rfl, rfl, rfl⟩
theorem EncodingShape.notImm8 (raw : BitVec 8) : EncodingShape.Statement (.notImm8 raw) := ⟨_, _, rfl, rfl, rfl⟩
theorem EncodingShape.negImm8 (raw : BitVec 8) : EncodingShape.Statement (.negImm8 raw) := ⟨_, _, rfl, rfl, rfl⟩
theorem EncodingShape.lnotImm8 (raw : BitVec 8) : EncodingShape.Statement (.lnotImm8 raw) := ⟨_, _, rfl, rfl, rfl⟩
theorem EncodingShape.eqImm8 (raw : BitVec 8) : EncodingShape.Statement (.eqImm8 raw) := ⟨_, _, rfl, rfl, rfl⟩
theorem EncodingShape.neImm8 (raw : BitVec 8) : EncodingShape.Statement (.neImm8 raw) := ⟨_, _, rfl, rfl, rfl⟩
theorem EncodingShape.ltUiImm8 (raw : BitVec 8) : EncodingShape.Statement (.ltUiImm8 raw) := ⟨_, _, rfl, rfl, rfl⟩
theorem EncodingShape.leUiImm8 (raw : BitVec 8) : EncodingShape.Statement (.leUiImm8 raw) := ⟨_, _, rfl, rfl, rfl⟩
theorem EncodingShape.gtUiImm8 (raw : BitVec 8) : EncodingShape.Statement (.gtUiImm8 raw) := ⟨_, _, rfl, rfl, rfl⟩
theorem EncodingShape.geUiImm8 (raw : BitVec 8) : EncodingShape.Statement (.geUiImm8 raw) := ⟨_, _, rfl, rfl, rfl⟩
theorem EncodingShape.ltSiImm8 (raw : BitVec 8) : EncodingShape.Statement (.ltSiImm8 raw) := ⟨_, _, rfl, rfl, rfl⟩
theorem EncodingShape.leSiImm8 (raw : BitVec 8) : EncodingShape.Statement (.leSiImm8 raw) := ⟨_, _, rfl, rfl, rfl⟩
theorem EncodingShape.gtSiImm8 (raw : BitVec 8) : EncodingShape.Statement (.gtSiImm8 raw) := ⟨_, _, rfl, rfl, rfl⟩
theorem EncodingShape.geSiImm8 (raw : BitVec 8) : EncodingShape.Statement (.geSiImm8 raw) := ⟨_, _, rfl, rfl, rfl⟩
theorem EncodingShape.loadU8Imm8 (raw : BitVec 8) : EncodingShape.Statement (.loadU8Imm8 raw) := ⟨_, _, rfl, rfl, rfl⟩
theorem EncodingShape.loadU16Imm8 (raw : BitVec 8) : EncodingShape.Statement (.loadU16Imm8 raw) := ⟨_, _, rfl, rfl, rfl⟩
theorem EncodingShape.loadU32Imm8 (raw : BitVec 8) : EncodingShape.Statement (.loadU32Imm8 raw) := ⟨_, _, rfl, rfl, rfl⟩
theorem EncodingShape.loadS8Imm8 (raw : BitVec 8) : EncodingShape.Statement (.loadS8Imm8 raw) := ⟨_, _, rfl, rfl, rfl⟩
theorem EncodingShape.loadS16Imm8 (raw : BitVec 8) : EncodingShape.Statement (.loadS16Imm8 raw) := ⟨_, _, rfl, rfl, rfl⟩
theorem EncodingShape.storeU8Imm8 (raw : BitVec 8) : EncodingShape.Statement (.storeU8Imm8 raw) := ⟨_, _, rfl, rfl, rfl⟩
theorem EncodingShape.storeU16Imm8 (raw : BitVec 8) : EncodingShape.Statement (.storeU16Imm8 raw) := ⟨_, _, rfl, rfl, rfl⟩
theorem EncodingShape.storeU32Imm8 (raw : BitVec 8) : EncodingShape.Statement (.storeU32Imm8 raw) := ⟨_, _, rfl, rfl, rfl⟩
theorem EncodingShape.storeU8DiscardImm8 (raw : BitVec 8) : EncodingShape.Statement (.storeU8DiscardImm8 raw) := ⟨_, _, rfl, rfl, rfl⟩
theorem EncodingShape.storeU16DiscardImm8 (raw : BitVec 8) : EncodingShape.Statement (.storeU16DiscardImm8 raw) := ⟨_, _, rfl, rfl, rfl⟩
theorem EncodingShape.storeU32DiscardImm8 (raw : BitVec 8) : EncodingShape.Statement (.storeU32DiscardImm8 raw) := ⟨_, _, rfl, rfl, rfl⟩
theorem EncodingShape.dcopyImm8 (raw : BitVec 8) : EncodingShape.Statement (.dcopyImm8 raw) := ⟨_, _, rfl, rfl, rfl⟩
theorem EncodingShape.pcopyImm8 (raw : BitVec 8) : EncodingShape.Statement (.pcopyImm8 raw) := ⟨_, _, rfl, rfl, rfl⟩
theorem EncodingShape.callImm8 (raw : BitVec 8) : EncodingShape.Statement (.callImm8 raw) := ⟨_, _, rfl, rfl, rfl⟩
theorem EncodingShape.jumpAbsImm8 (raw : BitVec 8) : EncodingShape.Statement (.jumpAbsImm8 raw) := ⟨_, _, rfl, rfl, rfl⟩
theorem EncodingShape.jumpAbsIfImm8 (raw : BitVec 8) : EncodingShape.Statement (.jumpAbsIfImm8 raw) := ⟨_, _, rfl, rfl, rfl⟩
theorem EncodingShape.jumpAbsIfNotImm8 (raw : BitVec 8) : EncodingShape.Statement (.jumpAbsIfNotImm8 raw) := ⟨_, _, rfl, rfl, rfl⟩
theorem EncodingShape.jumpRelImm8 (raw : BitVec 8) : EncodingShape.Statement (.jumpRelImm8 raw) := ⟨_, _, rfl, rfl, rfl⟩
theorem EncodingShape.jumpRelIfImm8 (raw : BitVec 8) : EncodingShape.Statement (.jumpRelIfImm8 raw) := ⟨_, _, rfl, rfl, rfl⟩
theorem EncodingShape.jumpRelIfNotImm8 (raw : BitVec 8) : EncodingShape.Statement (.jumpRelIfNotImm8 raw) := ⟨_, _, rfl, rfl, rfl⟩
theorem EncodingShape.syscallImm8 (raw : BitVec 8) : EncodingShape.Statement (.syscallImm8 raw) := ⟨_, _, rfl, rfl, rfl⟩
theorem EncodingShape.pushU16 (raw : BitVec 16) : EncodingShape.Statement (.pushU16 raw) := ⟨_, _, rfl, rfl, rfl⟩
theorem EncodingShape.pushS16 (raw : BitVec 16) : EncodingShape.Statement (.pushS16 raw) := ⟨_, _, rfl, rfl, rfl⟩
theorem EncodingShape.addImm16 (raw : BitVec 16) : EncodingShape.Statement (.addImm16 raw) := ⟨_, _, rfl, rfl, rfl⟩
theorem EncodingShape.subImm16 (raw : BitVec 16) : EncodingShape.Statement (.subImm16 raw) := ⟨_, _, rfl, rfl, rfl⟩
theorem EncodingShape.mulImm16 (raw : BitVec 16) : EncodingShape.Statement (.mulImm16 raw) := ⟨_, _, rfl, rfl, rfl⟩
theorem EncodingShape.andImm16 (raw : BitVec 16) : EncodingShape.Statement (.andImm16 raw) := ⟨_, _, rfl, rfl, rfl⟩
theorem EncodingShape.orImm16 (raw : BitVec 16) : EncodingShape.Statement (.orImm16 raw) := ⟨_, _, rfl, rfl, rfl⟩
theorem EncodingShape.xorImm16 (raw : BitVec 16) : EncodingShape.Statement (.xorImm16 raw) := ⟨_, _, rfl, rfl, rfl⟩
theorem EncodingShape.shlImm16 (raw : BitVec 16) : EncodingShape.Statement (.shlImm16 raw) := ⟨_, _, rfl, rfl, rfl⟩
theorem EncodingShape.shrUiImm16 (raw : BitVec 16) : EncodingShape.Statement (.shrUiImm16 raw) := ⟨_, _, rfl, rfl, rfl⟩
theorem EncodingShape.shrSiImm16 (raw : BitVec 16) : EncodingShape.Statement (.shrSiImm16 raw) := ⟨_, _, rfl, rfl, rfl⟩
theorem EncodingShape.notImm16 (raw : BitVec 16) : EncodingShape.Statement (.notImm16 raw) := ⟨_, _, rfl, rfl, rfl⟩
theorem EncodingShape.negImm16 (raw : BitVec 16) : EncodingShape.Statement (.negImm16 raw) := ⟨_, _, rfl, rfl, rfl⟩
theorem EncodingShape.lnotImm16 (raw : BitVec 16) : EncodingShape.Statement (.lnotImm16 raw) := ⟨_, _, rfl, rfl, rfl⟩
theorem EncodingShape.eqImm16 (raw : BitVec 16) : EncodingShape.Statement (.eqImm16 raw) := ⟨_, _, rfl, rfl, rfl⟩
theorem EncodingShape.neImm16 (raw : BitVec 16) : EncodingShape.Statement (.neImm16 raw) := ⟨_, _, rfl, rfl, rfl⟩
theorem EncodingShape.ltUiImm16 (raw : BitVec 16) : EncodingShape.Statement (.ltUiImm16 raw) := ⟨_, _, rfl, rfl, rfl⟩
theorem EncodingShape.leUiImm16 (raw : BitVec 16) : EncodingShape.Statement (.leUiImm16 raw) := ⟨_, _, rfl, rfl, rfl⟩
theorem EncodingShape.gtUiImm16 (raw : BitVec 16) : EncodingShape.Statement (.gtUiImm16 raw) := ⟨_, _, rfl, rfl, rfl⟩
theorem EncodingShape.geUiImm16 (raw : BitVec 16) : EncodingShape.Statement (.geUiImm16 raw) := ⟨_, _, rfl, rfl, rfl⟩
theorem EncodingShape.ltSiImm16 (raw : BitVec 16) : EncodingShape.Statement (.ltSiImm16 raw) := ⟨_, _, rfl, rfl, rfl⟩
theorem EncodingShape.leSiImm16 (raw : BitVec 16) : EncodingShape.Statement (.leSiImm16 raw) := ⟨_, _, rfl, rfl, rfl⟩
theorem EncodingShape.gtSiImm16 (raw : BitVec 16) : EncodingShape.Statement (.gtSiImm16 raw) := ⟨_, _, rfl, rfl, rfl⟩
theorem EncodingShape.geSiImm16 (raw : BitVec 16) : EncodingShape.Statement (.geSiImm16 raw) := ⟨_, _, rfl, rfl, rfl⟩
theorem EncodingShape.loadU8Imm16 (raw : BitVec 16) : EncodingShape.Statement (.loadU8Imm16 raw) := ⟨_, _, rfl, rfl, rfl⟩
theorem EncodingShape.loadU16Imm16 (raw : BitVec 16) : EncodingShape.Statement (.loadU16Imm16 raw) := ⟨_, _, rfl, rfl, rfl⟩
theorem EncodingShape.loadU32Imm16 (raw : BitVec 16) : EncodingShape.Statement (.loadU32Imm16 raw) := ⟨_, _, rfl, rfl, rfl⟩
theorem EncodingShape.loadS8Imm16 (raw : BitVec 16) : EncodingShape.Statement (.loadS8Imm16 raw) := ⟨_, _, rfl, rfl, rfl⟩
theorem EncodingShape.loadS16Imm16 (raw : BitVec 16) : EncodingShape.Statement (.loadS16Imm16 raw) := ⟨_, _, rfl, rfl, rfl⟩
theorem EncodingShape.storeU8Imm16 (raw : BitVec 16) : EncodingShape.Statement (.storeU8Imm16 raw) := ⟨_, _, rfl, rfl, rfl⟩
theorem EncodingShape.storeU16Imm16 (raw : BitVec 16) : EncodingShape.Statement (.storeU16Imm16 raw) := ⟨_, _, rfl, rfl, rfl⟩
theorem EncodingShape.storeU32Imm16 (raw : BitVec 16) : EncodingShape.Statement (.storeU32Imm16 raw) := ⟨_, _, rfl, rfl, rfl⟩
theorem EncodingShape.storeU8DiscardImm16 (raw : BitVec 16) : EncodingShape.Statement (.storeU8DiscardImm16 raw) := ⟨_, _, rfl, rfl, rfl⟩
theorem EncodingShape.storeU16DiscardImm16 (raw : BitVec 16) : EncodingShape.Statement (.storeU16DiscardImm16 raw) := ⟨_, _, rfl, rfl, rfl⟩
theorem EncodingShape.storeU32DiscardImm16 (raw : BitVec 16) : EncodingShape.Statement (.storeU32DiscardImm16 raw) := ⟨_, _, rfl, rfl, rfl⟩
theorem EncodingShape.dcopyImm16 (raw : BitVec 16) : EncodingShape.Statement (.dcopyImm16 raw) := ⟨_, _, rfl, rfl, rfl⟩
theorem EncodingShape.pcopyImm16 (raw : BitVec 16) : EncodingShape.Statement (.pcopyImm16 raw) := ⟨_, _, rfl, rfl, rfl⟩
theorem EncodingShape.callImm16 (raw : BitVec 16) : EncodingShape.Statement (.callImm16 raw) := ⟨_, _, rfl, rfl, rfl⟩
theorem EncodingShape.jumpAbsImm16 (raw : BitVec 16) : EncodingShape.Statement (.jumpAbsImm16 raw) := ⟨_, _, rfl, rfl, rfl⟩
theorem EncodingShape.jumpAbsIfImm16 (raw : BitVec 16) : EncodingShape.Statement (.jumpAbsIfImm16 raw) := ⟨_, _, rfl, rfl, rfl⟩
theorem EncodingShape.jumpAbsIfNotImm16 (raw : BitVec 16) : EncodingShape.Statement (.jumpAbsIfNotImm16 raw) := ⟨_, _, rfl, rfl, rfl⟩
theorem EncodingShape.jumpRelImm16 (raw : BitVec 16) : EncodingShape.Statement (.jumpRelImm16 raw) := ⟨_, _, rfl, rfl, rfl⟩
theorem EncodingShape.jumpRelIfImm16 (raw : BitVec 16) : EncodingShape.Statement (.jumpRelIfImm16 raw) := ⟨_, _, rfl, rfl, rfl⟩
theorem EncodingShape.jumpRelIfNotImm16 (raw : BitVec 16) : EncodingShape.Statement (.jumpRelIfNotImm16 raw) := ⟨_, _, rfl, rfl, rfl⟩
theorem EncodingShape.syscallImm16 (raw : BitVec 16) : EncodingShape.Statement (.syscallImm16 raw) := ⟨_, _, rfl, rfl, rfl⟩
theorem EncodingShape.pushU32 (raw : BitVec 32) : EncodingShape.Statement (.pushU32 raw) := ⟨_, _, rfl, rfl, rfl⟩
theorem EncodingShape.pushS32 (raw : BitVec 32) : EncodingShape.Statement (.pushS32 raw) := ⟨_, _, rfl, rfl, rfl⟩
theorem EncodingShape.addImm32 (raw : BitVec 32) : EncodingShape.Statement (.addImm32 raw) := ⟨_, _, rfl, rfl, rfl⟩
theorem EncodingShape.subImm32 (raw : BitVec 32) : EncodingShape.Statement (.subImm32 raw) := ⟨_, _, rfl, rfl, rfl⟩
theorem EncodingShape.mulImm32 (raw : BitVec 32) : EncodingShape.Statement (.mulImm32 raw) := ⟨_, _, rfl, rfl, rfl⟩
theorem EncodingShape.andImm32 (raw : BitVec 32) : EncodingShape.Statement (.andImm32 raw) := ⟨_, _, rfl, rfl, rfl⟩
theorem EncodingShape.orImm32 (raw : BitVec 32) : EncodingShape.Statement (.orImm32 raw) := ⟨_, _, rfl, rfl, rfl⟩
theorem EncodingShape.xorImm32 (raw : BitVec 32) : EncodingShape.Statement (.xorImm32 raw) := ⟨_, _, rfl, rfl, rfl⟩
theorem EncodingShape.shlImm32 (raw : BitVec 32) : EncodingShape.Statement (.shlImm32 raw) := ⟨_, _, rfl, rfl, rfl⟩
theorem EncodingShape.shrUiImm32 (raw : BitVec 32) : EncodingShape.Statement (.shrUiImm32 raw) := ⟨_, _, rfl, rfl, rfl⟩
theorem EncodingShape.shrSiImm32 (raw : BitVec 32) : EncodingShape.Statement (.shrSiImm32 raw) := ⟨_, _, rfl, rfl, rfl⟩
theorem EncodingShape.notImm32 (raw : BitVec 32) : EncodingShape.Statement (.notImm32 raw) := ⟨_, _, rfl, rfl, rfl⟩
theorem EncodingShape.negImm32 (raw : BitVec 32) : EncodingShape.Statement (.negImm32 raw) := ⟨_, _, rfl, rfl, rfl⟩
theorem EncodingShape.lnotImm32 (raw : BitVec 32) : EncodingShape.Statement (.lnotImm32 raw) := ⟨_, _, rfl, rfl, rfl⟩
theorem EncodingShape.eqImm32 (raw : BitVec 32) : EncodingShape.Statement (.eqImm32 raw) := ⟨_, _, rfl, rfl, rfl⟩
theorem EncodingShape.neImm32 (raw : BitVec 32) : EncodingShape.Statement (.neImm32 raw) := ⟨_, _, rfl, rfl, rfl⟩
theorem EncodingShape.ltUiImm32 (raw : BitVec 32) : EncodingShape.Statement (.ltUiImm32 raw) := ⟨_, _, rfl, rfl, rfl⟩
theorem EncodingShape.leUiImm32 (raw : BitVec 32) : EncodingShape.Statement (.leUiImm32 raw) := ⟨_, _, rfl, rfl, rfl⟩
theorem EncodingShape.gtUiImm32 (raw : BitVec 32) : EncodingShape.Statement (.gtUiImm32 raw) := ⟨_, _, rfl, rfl, rfl⟩
theorem EncodingShape.geUiImm32 (raw : BitVec 32) : EncodingShape.Statement (.geUiImm32 raw) := ⟨_, _, rfl, rfl, rfl⟩
theorem EncodingShape.ltSiImm32 (raw : BitVec 32) : EncodingShape.Statement (.ltSiImm32 raw) := ⟨_, _, rfl, rfl, rfl⟩
theorem EncodingShape.leSiImm32 (raw : BitVec 32) : EncodingShape.Statement (.leSiImm32 raw) := ⟨_, _, rfl, rfl, rfl⟩
theorem EncodingShape.gtSiImm32 (raw : BitVec 32) : EncodingShape.Statement (.gtSiImm32 raw) := ⟨_, _, rfl, rfl, rfl⟩
theorem EncodingShape.geSiImm32 (raw : BitVec 32) : EncodingShape.Statement (.geSiImm32 raw) := ⟨_, _, rfl, rfl, rfl⟩
theorem EncodingShape.loadU8Imm32 (raw : BitVec 32) : EncodingShape.Statement (.loadU8Imm32 raw) := ⟨_, _, rfl, rfl, rfl⟩
theorem EncodingShape.loadU16Imm32 (raw : BitVec 32) : EncodingShape.Statement (.loadU16Imm32 raw) := ⟨_, _, rfl, rfl, rfl⟩
theorem EncodingShape.loadU32Imm32 (raw : BitVec 32) : EncodingShape.Statement (.loadU32Imm32 raw) := ⟨_, _, rfl, rfl, rfl⟩
theorem EncodingShape.loadS8Imm32 (raw : BitVec 32) : EncodingShape.Statement (.loadS8Imm32 raw) := ⟨_, _, rfl, rfl, rfl⟩
theorem EncodingShape.loadS16Imm32 (raw : BitVec 32) : EncodingShape.Statement (.loadS16Imm32 raw) := ⟨_, _, rfl, rfl, rfl⟩
theorem EncodingShape.storeU8Imm32 (raw : BitVec 32) : EncodingShape.Statement (.storeU8Imm32 raw) := ⟨_, _, rfl, rfl, rfl⟩
theorem EncodingShape.storeU16Imm32 (raw : BitVec 32) : EncodingShape.Statement (.storeU16Imm32 raw) := ⟨_, _, rfl, rfl, rfl⟩
theorem EncodingShape.storeU32Imm32 (raw : BitVec 32) : EncodingShape.Statement (.storeU32Imm32 raw) := ⟨_, _, rfl, rfl, rfl⟩
theorem EncodingShape.storeU8DiscardImm32 (raw : BitVec 32) : EncodingShape.Statement (.storeU8DiscardImm32 raw) := ⟨_, _, rfl, rfl, rfl⟩
theorem EncodingShape.storeU16DiscardImm32 (raw : BitVec 32) : EncodingShape.Statement (.storeU16DiscardImm32 raw) := ⟨_, _, rfl, rfl, rfl⟩
theorem EncodingShape.storeU32DiscardImm32 (raw : BitVec 32) : EncodingShape.Statement (.storeU32DiscardImm32 raw) := ⟨_, _, rfl, rfl, rfl⟩
theorem EncodingShape.dcopyImm32 (raw : BitVec 32) : EncodingShape.Statement (.dcopyImm32 raw) := ⟨_, _, rfl, rfl, rfl⟩
theorem EncodingShape.pcopyImm32 (raw : BitVec 32) : EncodingShape.Statement (.pcopyImm32 raw) := ⟨_, _, rfl, rfl, rfl⟩
theorem EncodingShape.callImm32 (raw : BitVec 32) : EncodingShape.Statement (.callImm32 raw) := ⟨_, _, rfl, rfl, rfl⟩
theorem EncodingShape.jumpAbsImm32 (raw : BitVec 32) : EncodingShape.Statement (.jumpAbsImm32 raw) := ⟨_, _, rfl, rfl, rfl⟩
theorem EncodingShape.jumpAbsIfImm32 (raw : BitVec 32) : EncodingShape.Statement (.jumpAbsIfImm32 raw) := ⟨_, _, rfl, rfl, rfl⟩
theorem EncodingShape.jumpAbsIfNotImm32 (raw : BitVec 32) : EncodingShape.Statement (.jumpAbsIfNotImm32 raw) := ⟨_, _, rfl, rfl, rfl⟩
theorem EncodingShape.jumpRelImm32 (raw : BitVec 32) : EncodingShape.Statement (.jumpRelImm32 raw) := ⟨_, _, rfl, rfl, rfl⟩
theorem EncodingShape.jumpRelIfImm32 (raw : BitVec 32) : EncodingShape.Statement (.jumpRelIfImm32 raw) := ⟨_, _, rfl, rfl, rfl⟩
theorem EncodingShape.jumpRelIfNotImm32 (raw : BitVec 32) : EncodingShape.Statement (.jumpRelIfNotImm32 raw) := ⟨_, _, rfl, rfl, rfl⟩
theorem EncodingShape.syscallImm32 (raw : BitVec 32) : EncodingShape.Statement (.syscallImm32 raw) := ⟨_, _, rfl, rfl, rfl⟩

end Sys2Proof.Laws
end

