-- ==== Sys2Proof/Laws/Templates.lean ====
section
/-! SUPPORT. For each instruction template, what it answers in each case of its operands, and what it
leaves alone. `o.value s` is the designated operand, `s.sp + o.slots` the place of the next one. -/

namespace Sys2Proof.Machine

open Sys2Proof

variable {o : Operand} {s : State} {x y v a len src dst cond : Word}

/-! ## Binary and unary -/

theorem binary_of_operands (f : Word → Word → Word) (hy : o.value s = some y)
    (hx : s.stack[s.sp + o.slots]? = some x) :
    binary o f s =
      .next ((s.setSp (s.sp + o.slots)).setCell (s.sp + o.slots) (f x y)) := by
  have hp : pop (s.setSp (s.sp + o.slots)) = .ok x (s.setSp (s.sp + o.slots + 1)) :=
    pop_of_live (by simpa using hx)
  simp only [binary, take_of_value hy, Res.ok_andThen, hp, push_after_pop, Res.ok_outcome]

theorem binary_of_no_left (f : Word → Word → Word) (hy : o.value s = some y)
    (hx : s.stack[s.sp + o.slots]? = none) :
    binary o f s = .next (raise .stackEmpty (s.setSp (s.sp + o.slots))) := by
  have hp : pop (s.setSp (s.sp + o.slots)) = .raised (raise .stackEmpty (s.setSp (s.sp + o.slots))) :=
    pop_of_empty (by simpa using hx)
  simp only [binary, take_of_value hy, Res.ok_andThen, hp, Res.raised_andThen, Res.raised_outcome]

theorem binary_of_no_right (f : Word → Word → Word) (hy : o.value s = none) :
    binary o f s = .next (raise .stackEmpty s) := by
  simp only [binary, take_of_none hy, Res.raised_andThen, Res.raised_outcome]

theorem unary_of_operand (g : Word → Word) (hx : o.value s = some x) (hr : s.sp + o.slots ≠ 0) :
    unary o g s =
      .next ((s.setSp (s.sp + o.slots - 1)).setCell (s.sp + o.slots - 1) (g x)) := by
  have hp := push_of_room (s := s.setSp (s.sp + o.slots)) (g x) (by simpa using hr)
  simp only [unary, take_of_value hx, Res.ok_andThen, hp]; rfl

theorem unary_of_full (g : Word → Word) (hx : o.value s = some x) (hr : s.sp + o.slots = 0) :
    unary o g s = .next (raise .stackFull (s.setSp (s.sp + o.slots))) := by
  have hp := push_of_full (s := s.setSp (s.sp + o.slots)) (g x) (by simpa using hr)
  simp only [unary, take_of_value hx, Res.ok_andThen, hp, Res.raised_outcome]

theorem unary_of_no_operand (g : Word → Word) (hx : o.value s = none) :
    unary o g s = .next (raise .stackEmpty s) := by
  simp only [unary, take_of_none hx, Res.raised_andThen, Res.raised_outcome]

/-! ## Loads and stores -/

theorem load_of_inBounds (w : Width) (ext : Word → Word) (ha : o.value s = some a)
    (hb : InBounds a (widthBytes w) s.data.len) (hr : s.sp + o.slots ≠ 0) :
    load o w ext s =
      .next ((s.setSp (s.sp + o.slots - 1)).setCell (s.sp + o.slots - 1)
        (ext (leWord (bytesAt s.data a.toNat (widthBytes w))))) := by
  have hm := memRead_of_inBounds (s := s.setSp (s.sp + o.slots)) hb
  have hp := push_of_room (s := s.setSp (s.sp + o.slots))
    (ext (leWord (bytesAt s.data a.toNat (widthBytes w)))) (by simpa using hr)
  simp only [load, take_of_value ha, Res.ok_andThen, hm, State.setSp_data, hp]; rfl

theorem load_of_full (w : Width) (ext : Word → Word) (ha : o.value s = some a)
    (hb : InBounds a (widthBytes w) s.data.len) (hr : s.sp + o.slots = 0) :
    load o w ext s = .next (raise .stackFull (s.setSp (s.sp + o.slots))) := by
  have hm := memRead_of_inBounds (s := s.setSp (s.sp + o.slots)) hb
  have hp := push_of_full (s := s.setSp (s.sp + o.slots))
    (ext (leWord (bytesAt s.data a.toNat (widthBytes w)))) (by simpa using hr)
  simp only [load, take_of_value ha, Res.ok_andThen, hm, State.setSp_data, hp, Res.raised_outcome]

theorem load_of_not_inBounds (w : Width) (ext : Word → Word) (ha : o.value s = some a)
    (hb : ¬ InBounds a (widthBytes w) s.data.len) :
    load o w ext s = .next (raise .dataAddressOutOfBounds (s.setSp (s.sp + o.slots))) := by
  have hm := memRead_of_not_inBounds (s := s.setSp (s.sp + o.slots)) hb
  simp only [load, take_of_value ha, Res.ok_andThen, hm, Res.raised_andThen, Res.raised_outcome]

theorem load_of_no_address (w : Width) (ext : Word → Word) (ha : o.value s = none) :
    load o w ext s = .next (raise .stackEmpty s) := by
  simp only [load, take_of_none ha, Res.raised_andThen, Res.raised_outcome]

theorem store_of_inBounds (w : Width) (ha : o.value s = some a)
    (hv : s.stack[s.sp + o.slots]? = some v) (hb : InBounds a (widthBytes w) s.data.len) :
    store o w s =
      .next (((s.setData (writeBytes s.data a.toNat (wordBytes (widthBytes w) v))).setSp
        (s.sp + o.slots)).setCell (s.sp + o.slots) v) := by
  have hp : pop (s.setSp (s.sp + o.slots)) = .ok v (s.setSp (s.sp + o.slots + 1)) :=
    pop_of_live (by simpa using hv)
  have hm := memWrite_of_inBounds (s := s.setSp (s.sp + o.slots + 1)) (v := v) hb
  have hq := push_after_pop
    (s.setData (writeBytes s.data a.toNat (wordBytes (widthBytes w) v))) (s.sp + o.slots) v
  simp only [store, take_of_value ha, Res.ok_andThen, hp, hm]
  exact congrArg Res.outcome hq

theorem storeDiscard_of_inBounds (w : Width) (ha : o.value s = some a)
    (hv : s.stack[s.sp + o.slots]? = some v) (hb : InBounds a (widthBytes w) s.data.len) :
    storeDiscard o w s =
      .next ((s.setData (writeBytes s.data a.toNat (wordBytes (widthBytes w) v))).setSp
        (s.sp + o.slots + 1)) := by
  have hp : pop (s.setSp (s.sp + o.slots)) = .ok v (s.setSp (s.sp + o.slots + 1)) :=
    pop_of_live (by simpa using hv)
  have hm := memWrite_of_inBounds (s := s.setSp (s.sp + o.slots + 1)) (v := v) hb
  simp only [storeDiscard, take_of_value ha, Res.ok_andThen, hp, hm]; rfl

/-- Out of bounds: both popped words are lost and no byte changes. -/
theorem store_of_not_inBounds (w : Width) (ha : o.value s = some a)
    (hv : s.stack[s.sp + o.slots]? = some v) (hb : ¬ InBounds a (widthBytes w) s.data.len) :
    store o w s = .next (raise .dataAddressOutOfBounds (s.setSp (s.sp + o.slots + 1))) ∧
    storeDiscard o w s =
      .next (raise .dataAddressOutOfBounds (s.setSp (s.sp + o.slots + 1))) := by
  have hp : pop (s.setSp (s.sp + o.slots)) = .ok v (s.setSp (s.sp + o.slots + 1)) :=
    pop_of_live (by simpa using hv)
  have hm := memWrite_of_not_inBounds (s := s.setSp (s.sp + o.slots + 1)) (v := v) hb
  constructor
  · simp only [store, take_of_value ha, Res.ok_andThen, hp, hm, Res.raised_andThen,
      Res.raised_outcome]
  · simp only [storeDiscard, take_of_value ha, Res.ok_andThen, hp, hm, Res.raised_outcome]

theorem store_of_no_value (w : Width) (ha : o.value s = some a)
    (hv : s.stack[s.sp + o.slots]? = none) :
    store o w s = .next (raise .stackEmpty (s.setSp (s.sp + o.slots))) ∧
    storeDiscard o w s = .next (raise .stackEmpty (s.setSp (s.sp + o.slots))) := by
  have hp : pop (s.setSp (s.sp + o.slots)) = .raised (raise .stackEmpty (s.setSp (s.sp + o.slots))) :=
    pop_of_empty (by simpa using hv)
  constructor
  · simp only [store, take_of_value ha, Res.ok_andThen, hp, Res.raised_andThen, Res.raised_outcome]
  · simp only [storeDiscard, take_of_value ha, Res.ok_andThen, hp, Res.raised_andThen,
      Res.raised_outcome]

theorem store_of_no_address (w : Width) (ha : o.value s = none) :
    store o w s = .next (raise .stackEmpty s) ∧
    storeDiscard o w s = .next (raise .stackEmpty s) := by
  constructor
  · simp only [store, take_of_none ha, Res.raised_andThen, Res.raised_outcome]
  · simp only [storeDiscard, take_of_none ha, Res.raised_andThen, Res.raised_outcome]

/-! ## Block copies -/

/-- With all three operands on hand, what `dcopy` does. -/
theorem dataCopy_of_operands (hl : o.value s = some len)
    (hs : s.stack[s.sp + o.slots]? = some src) (hd : s.stack[s.sp + o.slots + 1]? = some dst) :
    dataCopy o s =
      if ¬ InBounds src len.toNat s.data.len ∨ ¬ InBounds dst len.toNat s.data.len then
        .next (raise .dataAddressOutOfBounds (s.setSp (s.sp + o.slots + 2)))
      else .next ((s.setData (copyWithin s.data dst.toNat src.toNat len.toNat)).setSp
        (s.sp + o.slots + 2)) := by
  have hp : pop (s.setSp (s.sp + o.slots)) = .ok src (s.setSp (s.sp + o.slots + 1)) :=
    pop_of_live (by simpa using hs)
  have hq : pop (s.setSp (s.sp + o.slots + 1)) = .ok dst (s.setSp (s.sp + o.slots + 2)) :=
    pop_of_live (by simpa using hd)
  simp only [dataCopy, take_of_value hl, Res.ok_andThen, hp, hq, State.setSp_data]
  by_cases h1 : InBounds src len.toNat s.data.len
  · by_cases h2 : InBounds dst len.toNat s.data.len
    · simp [h1, h2]; rfl
    · simp [h1, h2]
  · simp [h1]

/-- With all three operands on hand, what `pcopy` does: the source is checked first. -/
theorem programCopy_of_operands (hl : o.value s = some len)
    (hs : s.stack[s.sp + o.slots]? = some src) (hd : s.stack[s.sp + o.slots + 1]? = some dst) :
    programCopy o s =
      if ¬ InBounds src len.toNat s.program.len then
        .next (raise .programAddressOutOfBounds (s.setSp (s.sp + o.slots + 2)))
      else if ¬ InBounds dst len.toNat s.data.len then
        .next (raise .dataAddressOutOfBounds (s.setSp (s.sp + o.slots + 2)))
      else .next ((s.setData (copyFrom s.program s.data dst.toNat src.toNat len.toNat)).setSp
        (s.sp + o.slots + 2)) := by
  have hp : pop (s.setSp (s.sp + o.slots)) = .ok src (s.setSp (s.sp + o.slots + 1)) :=
    pop_of_live (by simpa using hs)
  have hq : pop (s.setSp (s.sp + o.slots + 1)) = .ok dst (s.setSp (s.sp + o.slots + 2)) :=
    pop_of_live (by simpa using hd)
  simp only [programCopy, take_of_value hl, Res.ok_andThen, hp, hq, State.setSp_data,
    State.setSp_program]
  by_cases h1 : InBounds src len.toNat s.program.len
  · by_cases h2 : InBounds dst len.toNat s.data.len
    · simp [h1, h2]; rfl
    · simp [h1, h2]
  · simp [h1]

/-- With an operand missing, both copies raise `StackEmpty` after popping those present. -/
theorem copy_of_no_len (hl : o.value s = none) :
    dataCopy o s = .next (raise .stackEmpty s) ∧
    programCopy o s = .next (raise .stackEmpty s) := by
  constructor
  · simp only [dataCopy, take_of_none hl, Res.raised_andThen, Res.raised_outcome]
  · simp only [programCopy, take_of_none hl, Res.raised_andThen, Res.raised_outcome]

theorem copy_of_no_src (hl : o.value s = some len) (hs : s.stack[s.sp + o.slots]? = none) :
    dataCopy o s = .next (raise .stackEmpty (s.setSp (s.sp + o.slots))) ∧
    programCopy o s = .next (raise .stackEmpty (s.setSp (s.sp + o.slots))) := by
  have hp : pop (s.setSp (s.sp + o.slots)) = .raised (raise .stackEmpty (s.setSp (s.sp + o.slots))) :=
    pop_of_empty (by simpa using hs)
  constructor
  · simp only [dataCopy, take_of_value hl, Res.ok_andThen, hp, Res.raised_andThen,
      Res.raised_outcome]
  · simp only [programCopy, take_of_value hl, Res.ok_andThen, hp, Res.raised_andThen,
      Res.raised_outcome]

theorem copy_of_no_dst (hl : o.value s = some len) (hs : s.stack[s.sp + o.slots]? = some src)
    (hd : s.stack[s.sp + o.slots + 1]? = none) :
    dataCopy o s = .next (raise .stackEmpty (s.setSp (s.sp + o.slots + 1))) ∧
    programCopy o s = .next (raise .stackEmpty (s.setSp (s.sp + o.slots + 1))) := by
  have hp : pop (s.setSp (s.sp + o.slots)) = .ok src (s.setSp (s.sp + o.slots + 1)) :=
    pop_of_live (by simpa using hs)
  have hq : pop (s.setSp (s.sp + o.slots + 1)) =
      .raised (raise .stackEmpty (s.setSp (s.sp + o.slots + 1))) :=
    pop_of_empty (by simpa using hd)
  constructor
  · simp only [dataCopy, take_of_value hl, Res.ok_andThen, hp, hq, Res.raised_andThen,
      Res.raised_outcome]
  · simp only [programCopy, take_of_value hl, Res.ok_andThen, hp, hq, Res.raised_andThen,
      Res.raised_outcome]

/-! ## Control transfers -/

/-- `call`, with a target on hand: room for the return address decides. -/
theorem callTo_of_target (ht : o.value s = some v) :
    callTo o s =
      if s.sp + o.slots = 0 then .next (raise .stackFull (s.setSp (s.sp + o.slots)))
      else .next (((s.setSp (s.sp + o.slots - 1)).setCell (s.sp + o.slots - 1) s.ip).setIp v) := by
  simp only [callTo, take_of_value ht, Res.ok_andThen, State.setSp_ip]
  split
  · rename_i h
    rw [push_of_full _ (by simpa using h)]; rfl
  · rename_i h
    rw [push_of_room _ (by simpa using h)]; rfl

theorem jumpTo_of_target (ht : o.value s = some v) :
    jumpTo o s = .next ((s.setSp (s.sp + o.slots)).setIp v) := by
  simp only [jumpTo, take_of_value ht, Res.ok_andThen, Res.ok_outcome]

/-- `jump-rel`, with a delta on hand. -/
theorem jumpBy_of_delta (ht : o.value s = some v) :
    jumpBy o s =
      if s.sp + o.slots = 0 then .next (raise .stackFull (s.setSp (s.sp + o.slots)))
      else .next (((s.setSp (s.sp + o.slots - 1)).setCell (s.sp + o.slots - 1) s.ip).setIp
        (s.ip + v)) := by
  simp only [jumpBy, take_of_value ht, Res.ok_andThen, State.setSp_ip]
  split
  · rename_i h
    rw [push_of_full _ (by simpa using h)]; rfl
  · rename_i h
    rw [push_of_room _ (by simpa using h)]; rfl

theorem transfer_of_no_target (ht : o.value s = none) :
    callTo o s = .next (raise .stackEmpty s) ∧ jumpTo o s = .next (raise .stackEmpty s) ∧
    jumpBy o s = .next (raise .stackEmpty s) := by
  refine ⟨?_, ?_, ?_⟩
  · simp only [callTo, take_of_none ht, Res.raised_andThen, Res.raised_outcome]
  · simp only [jumpTo, take_of_none ht, Res.raised_andThen, Res.raised_outcome]
  · simp only [jumpBy, take_of_none ht, Res.raised_andThen, Res.raised_outcome]

/-- The conditional jumps, with the condition and the address or delta on hand. -/
theorem jumpWhen_of_operands (test : Word → Bool) (hc : s.stack[s.sp]? = some cond)
    (ht : o.value (s.setSp (s.sp + 1)) = some v) :
    jumpToWhen o test s = .next (if test cond then (s.setSp (s.sp + 1 + o.slots)).setIp v
      else s.setSp (s.sp + 1 + o.slots)) ∧
    jumpByWhen o test s = .next (if test cond then (s.setSp (s.sp + 1 + o.slots)).setIp (s.ip + v)
      else s.setSp (s.sp + 1 + o.slots)) := by
  constructor
  · simp only [jumpToWhen, pop_of_live hc, Res.ok_andThen, take_of_value ht, Res.ok_outcome]; rfl
  · simp only [jumpByWhen, pop_of_live hc, Res.ok_andThen, take_of_value ht, Res.ok_outcome]; rfl

theorem jumpWhen_of_no_condition (test : Word → Bool) (hc : s.stack[s.sp]? = none) :
    jumpToWhen o test s = .next (raise .stackEmpty s) ∧
    jumpByWhen o test s = .next (raise .stackEmpty s) := by
  constructor
  · simp only [jumpToWhen, pop_of_empty hc, Res.raised_andThen, Res.raised_outcome]
  · simp only [jumpByWhen, pop_of_empty hc, Res.raised_andThen, Res.raised_outcome]

theorem jumpWhen_of_no_target (test : Word → Bool) (hc : s.stack[s.sp]? = some cond)
    (ht : o.value (s.setSp (s.sp + 1)) = none) :
    jumpToWhen o test s = .next (raise .stackEmpty (s.setSp (s.sp + 1))) ∧
    jumpByWhen o test s = .next (raise .stackEmpty (s.setSp (s.sp + 1))) := by
  constructor
  · simp only [jumpToWhen, pop_of_live hc, Res.ok_andThen, take_of_none ht, Res.raised_andThen,
      Res.raised_outcome]
  · simp only [jumpByWhen, pop_of_live hc, Res.ok_andThen, take_of_none ht, Res.raised_andThen,
      Res.raised_outcome]

/-! ## What each template keeps

Each ends in a next state that keeps the frame and the core's invariant. -/

section Kept

variable (o s)

theorem binary_kept (f : Word → Word → Word) : ∃ t, binary o f s = .next t ∧ CoreKept s t :=
  ((take_kept s o s (.refl s)).andThen fun _ s1 h1 =>
    (pop_kept s s1 h1).andThen fun _ s2 h2 => push_kept s _ s2 h2).outcome

theorem unary_kept (g : Word → Word) : ∃ t, unary o g s = .next t ∧ CoreKept s t :=
  ((take_kept s o s (.refl s)).andThen fun _ s1 h1 => push_kept s _ s1 h1).outcome

theorem load_kept (w : Width) (ext : Word → Word) : ∃ t, load o w ext s = .next t ∧ CoreKept s t :=
  ((take_kept s o s (.refl s)).andThen fun _ s1 h1 =>
    (memRead_kept s _ w s1 h1).andThen fun _ s2 h2 => push_kept s _ s2 h2).outcome

theorem store_kept (w : Width) : ∃ t, store o w s = .next t ∧ CoreKept s t :=
  ((take_kept s o s (.refl s)).andThen fun _ s1 h1 => (pop_kept s s1 h1).andThen fun _ s2 h2 =>
    (memWrite_kept s _ w _ s2 h2).andThen fun _ s3 h3 => push_kept s _ s3 h3).outcome

theorem storeDiscard_kept (w : Width) : ∃ t, storeDiscard o w s = .next t ∧ CoreKept s t :=
  ((take_kept s o s (.refl s)).andThen fun _ s1 h1 => (pop_kept s s1 h1).andThen fun _ s2 h2 =>
    memWrite_kept s _ w _ s2 h2).outcome

theorem dataCopy_kept : ∃ t, dataCopy o s = .next t ∧ CoreKept s t := by
  refine ((take_kept s o s (.refl s)).andThen fun _ s1 h1 => (pop_kept s s1 h1).andThen fun _ s2 h2 =>
    (pop_kept s s2 h2).andThen fun _ s3 h3 => ?_).outcome
  split
  · exact h3.raise _
  · split
    · exact h3.raise _
    · exact h3.setData (by simp) (wf_copyWithin _ _ _)

theorem programCopy_kept : ∃ t, programCopy o s = .next t ∧ CoreKept s t := by
  refine ((take_kept s o s (.refl s)).andThen fun _ s1 h1 => (pop_kept s s1 h1).andThen fun _ s2 h2 =>
    (pop_kept s s2 h2).andThen fun _ s3 h3 => ?_).outcome
  split
  · exact h3.raise _
  · split
    · exact h3.raise _
    · exact h3.setData (by simp) (wf_copyFrom _ _ _ _)

theorem callTo_kept : ∃ t, callTo o s = .next t ∧ CoreKept s t := by
  refine ((take_kept s o s (.refl s)).andThen fun _ s1 h1 =>
    (push_kept s _ s1 h1).andThen fun _ _ h2 => ?_).outcome
  exact h2.setIp _

theorem jumpTo_kept : ∃ t, jumpTo o s = .next t ∧ CoreKept s t := by
  refine ((take_kept s o s (.refl s)).andThen fun _ _ h1 => ?_).outcome
  exact h1.setIp _

theorem jumpToWhen_kept (test : Word → Bool) :
    ∃ t, jumpToWhen o test s = .next t ∧ CoreKept s t := by
  refine ((pop_kept s s (.refl s)).andThen fun _ s1 h1 =>
    (take_kept s o s1 h1).andThen fun _ s2 h2 => ?_).outcome
  show CoreKept s _
  split
  · exact h2.setIp _
  · exact h2

theorem jumpBy_kept : ∃ t, jumpBy o s = .next t ∧ CoreKept s t := by
  refine ((take_kept s o s (.refl s)).andThen fun _ s1 h1 =>
    (push_kept s _ s1 h1).andThen fun _ _ h2 => ?_).outcome
  exact h2.setIp _

theorem jumpByWhen_kept (test : Word → Bool) :
    ∃ t, jumpByWhen o test s = .next t ∧ CoreKept s t := by
  refine ((pop_kept s s (.refl s)).andThen fun _ s1 h1 =>
    (take_kept s o s1 h1).andThen fun _ s2 h2 => ?_).outcome
  show CoreKept s _
  split
  · exact h2.setIp _
  · exact h2

end Kept

/-! ## The syscall hook -/

/-- What a hook run can come to: a state that keeps the core's frame and invariant, or a stop. -/
theorem runHook_kept (s0 : State) (run : List HookAct) {s t : State} (h : CoreKept s0 s)
    (hr : runHook run s = .next t) : CoreKept s0 t := by
  induction run generalizing s with
  | nil =>
    simp only [runHook, Host.Outcome.next.injEq] at hr
    exact hr ▸ h
  | cons act rest ih =>
    have after : ∀ {α : Type} (r : Res α), r.All (CoreKept s0) →
        afterPrimitive r (runHook rest) = .next t → CoreKept s0 t := by
      intro α r ha he
      cases r with
      | ok a u => exact ih ha he
      | raised u =>
        simp only [afterPrimitive, Host.Outcome.next.injEq] at he
        exact he ▸ ha
    cases act with
    | inspect => exact ih h hr
    | outside => exact ih h hr
    | pop => exact after _ (pop_kept s0 s h) hr
    | push v => exact after _ (push_kept s0 v s h) hr
    | memRead a w => exact after _ (memRead_kept s0 a w s h) hr
    | memWrite a w v => exact after _ (memWrite_kept s0 a w v s h) hr
    | raise c =>
      simp only [runHook] at hr
      split at hr
      · exact absurd hr (by simp)
      · simp only [Host.Outcome.next.injEq] at hr
        exact hr ▸ h.raise c
    | breach b => simp [runHook] at hr
    | spin => simp [runHook] at hr

/-- Everything a hook's run can end in: a next state, or one of its own three stops. -/
theorem runHook_cases (run : List HookAct) (s : State) :
    (∃ t, runHook run s = .next t) ∨ runHook run s = .fault .hookNeverReturns ∨
    (∃ b, runHook run s = .refused (.hookBreaksDuty b)) ∨
    runHook run s = .refused .hookRaisesSuccess := by
  induction run generalizing s with
  | nil => exact .inl ⟨s, rfl⟩
  | cons act rest ih =>
    have after : ∀ {α : Type} (r : Res α),
        (∃ t, afterPrimitive r (runHook rest) = .next t) ∨
        afterPrimitive r (runHook rest) = .fault .hookNeverReturns ∨
        (∃ b, afterPrimitive r (runHook rest) = .refused (.hookBreaksDuty b)) ∨
        afterPrimitive r (runHook rest) = .refused .hookRaisesSuccess := fun r => by
      cases r with
      | ok _ u => exact ih u
      | raised u => exact .inl ⟨u, rfl⟩
    cases act with
    | inspect => exact ih s
    | outside => exact ih s
    | pop => exact after (pop s)
    | push v => exact after (push v s)
    | memRead a w => exact after (memRead a w s)
    | memWrite a w v => exact after (memWrite a w v s)
    | raise c =>
      by_cases hc : c = .success
      · exact .inr (.inr (.inr (if_pos hc)))
      · exact .inl ⟨_, if_neg hc⟩
    | breach b => exact .inr (.inr (.inl ⟨b, rfl⟩))
    | spin => exact .inr (.inl rfl)

/-- Everything `syscall` can end in. -/
theorem sysCall_cases (o : Operand) (s : State) :
    (∃ t, sysCall o s = .next t) ∨ sysCall o s = .fault .hookNeverReturns ∨
    (∃ b, sysCall o s = .refused (.hookBreaksDuty b)) ∨
    sysCall o s = .refused .hookRaisesSuccess := by
  cases ht : o.take s with
  | raised u => exact .inl ⟨u, by simp only [sysCall, ht]⟩
  | ok n u =>
    cases hh : u.hook with
    | none => exact .inl ⟨_, by simp only [sysCall, ht, hh]; rfl⟩
    | some h => simpa only [sysCall, ht, hh] using runHook_cases _ _

theorem sysCall_of_no_number (hn : o.value s = none) :
    sysCall o s = .next (raise .stackEmpty s) := by
  simp only [sysCall, take_of_none hn]

theorem sysCall_of_no_hook {n : Word} (hn : o.value s = some n) (hh : s.hook = none) :
    sysCall o s = .next (raise .badSyscall (s.setSp (s.sp + o.slots))) := by
  simp only [sysCall, take_of_value hn, State.setSp_hook, hh]

/-- With a hook bound, `syscall` runs it past the popped call number. -/
theorem sysCall_of_hook {n : Word} {h : Nat} (hn : o.value s = some n) (hh : s.hook = some h) :
    sysCall o s = runHook (nextHookRun h n (s.setSp (s.sp + o.slots)))
      ((s.setSp (s.sp + o.slots)).setHookRuns s.hookRuns.tail) := by
  simp only [sysCall, take_of_value hn, State.setSp_hook, hh, State.setSp_hookRuns]

theorem sysCall_kept {t : State} (hr : sysCall o s = .next t) : CoreKept s t := by
  obtain ⟨n, hn, -⟩ | ⟨hn, -⟩ := take_cases o s
  · have hk : CoreKept s (s.setSp (s.sp + o.slots)) := by
      have := take_kept s o s (.refl s)
      rwa [take_of_value hn] at this
    cases hh : s.hook with
    | none =>
      rw [sysCall_of_no_hook hn hh] at hr
      simp only [Host.Outcome.next.injEq] at hr
      exact hr ▸ hk.raise _
    | some h =>
      rw [sysCall_of_hook hn hh] at hr
      exact runHook_kept s _ ⟨hk.1.trans (.setHookRuns _ _), hk.2⟩ hr
  · rw [sysCall_of_no_number hn] at hr
    simp only [Host.Outcome.next.injEq] at hr
    exact hr ▸ (CoreKept.refl s).raise _

end Sys2Proof.Machine
end

