-- ==== Sys2Proof/Laws/Shape.lean ====
section
/-! SUPPORT. Every instruction is one of eighteen shapes over the shared operations, so that a fact about all
instructions needs eighteen cases. -/

namespace Sys2Proof.Machine

open Sys2Proof

/-- What an instruction runs: a shared template with its operand form and its function. -/
inductive Shape where
  | halt
  | push (v : Word)
  | drop
  | dup
  | swap
  | binary (o : Operand) (f : Word → Word → Word)
  | unary (o : Operand) (g : Word → Word)
  | load (o : Operand) (w : Width) (ext : Word → Word)
  | store (o : Operand) (w : Width)
  | storeDiscard (o : Operand) (w : Width)
  | dataCopy (o : Operand)
  | programCopy (o : Operand)
  | callTo (o : Operand)
  | jumpTo (o : Operand)
  | jumpToWhen (o : Operand) (test : Word → Bool)
  | jumpBy (o : Operand)
  | jumpByWhen (o : Operand) (test : Word → Bool)
  | sysCall (o : Operand)

/-- The meaning a shape stands for. -/
def Shape.run : Shape → State → Host.Outcome State Fault Refusal
  | .halt => execHalt
  | .push v => pushWord v
  | .drop => execDrop
  | .dup => execDup
  | .swap => execSwap
  | .binary o f => Machine.binary o f
  | .unary o g => Machine.unary o g
  | .load o w ext => Machine.load o w ext
  | .store o w => Machine.store o w
  | .storeDiscard o w => Machine.storeDiscard o w
  | .dataCopy o => Machine.dataCopy o
  | .programCopy o => Machine.programCopy o
  | .callTo o => Machine.callTo o
  | .jumpTo o => Machine.jumpTo o
  | .jumpToWhen o test => Machine.jumpToWhen o test
  | .jumpBy o => Machine.jumpBy o
  | .jumpByWhen o test => Machine.jumpByWhen o test
  | .sysCall o => Machine.sysCall o

/-- The shape of an instruction. -/
def shapeOf : Instr → Shape
  | .halt => .halt
  | .drop => .drop
  | .dup => .dup
  | .swap => .swap
  | .add => .binary .popped fAdd
  | .sub => .binary .popped fSub
  | .mul => .binary .popped fMul
  | .and => .binary .popped fAnd
  | .or => .binary .popped fOr
  | .xor => .binary .popped fXor
  | .shl => .binary .popped fShl
  | .shrUi => .binary .popped fShrU
  | .shrSi => .binary .popped fShrS
  | .not => .unary .popped gNot
  | .neg => .unary .popped gNeg
  | .lnot => .unary .popped gLnot
  | .eq => .binary .popped relEq
  | .ne => .binary .popped relNe
  | .ltUi => .binary .popped relLtU
  | .leUi => .binary .popped relLeU
  | .gtUi => .binary .popped relGtU
  | .geUi => .binary .popped relGeU
  | .ltSi => .binary .popped relLtS
  | .leSi => .binary .popped relLeS
  | .gtSi => .binary .popped relGtS
  | .geSi => .binary .popped relGeS
  | .loadU8 => .load .popped .byte extZero
  | .loadU16 => .load .popped .half extZero
  | .loadU32 => .load .popped .word extZero
  | .loadS8 => .load .popped .byte extSign8
  | .loadS16 => .load .popped .half extSign16
  | .storeU8 => .store .popped .byte
  | .storeU16 => .store .popped .half
  | .storeU32 => .store .popped .word
  | .storeU8Discard => .storeDiscard .popped .byte
  | .storeU16Discard => .storeDiscard .popped .half
  | .storeU32Discard => .storeDiscard .popped .word
  | .dcopy => .dataCopy .popped
  | .pcopy => .programCopy .popped
  | .call => .callTo .popped
  | .jumpAbs => .jumpTo .popped
  | .jumpAbsIf => .jumpToWhen .popped isNonzero
  | .jumpAbsIfNot => .jumpToWhen .popped isZero
  | .jumpRel => .jumpBy .popped
  | .jumpRelIf => .jumpByWhen .popped isNonzero
  | .jumpRelIfNot => .jumpByWhen .popped isZero
  | .syscall => .sysCall .popped
  | .pushU8 raw => .push (raw.setWidth 32)
  | .pushS8 raw => .push (raw.signExtend 32)
  | .addImm8 raw => .binary (zeroImm raw) fAdd
  | .subImm8 raw => .binary (zeroImm raw) fSub
  | .mulImm8 raw => .binary (zeroImm raw) fMul
  | .andImm8 raw => .binary (zeroImm raw) fAnd
  | .orImm8 raw => .binary (zeroImm raw) fOr
  | .xorImm8 raw => .binary (zeroImm raw) fXor
  | .shlImm8 raw => .binary (zeroImm raw) fShl
  | .shrUiImm8 raw => .binary (zeroImm raw) fShrU
  | .shrSiImm8 raw => .binary (zeroImm raw) fShrS
  | .notImm8 raw => .unary (zeroImm raw) gNot
  | .negImm8 raw => .unary (zeroImm raw) gNeg
  | .lnotImm8 raw => .unary (zeroImm raw) gLnot
  | .eqImm8 raw => .binary (zeroImm raw) relEq
  | .neImm8 raw => .binary (zeroImm raw) relNe
  | .ltUiImm8 raw => .binary (zeroImm raw) relLtU
  | .leUiImm8 raw => .binary (zeroImm raw) relLeU
  | .gtUiImm8 raw => .binary (zeroImm raw) relGtU
  | .geUiImm8 raw => .binary (zeroImm raw) relGeU
  | .ltSiImm8 raw => .binary (signImm raw) relLtS
  | .leSiImm8 raw => .binary (signImm raw) relLeS
  | .gtSiImm8 raw => .binary (signImm raw) relGtS
  | .geSiImm8 raw => .binary (signImm raw) relGeS
  | .loadU8Imm8 raw => .load (zeroImm raw) .byte extZero
  | .loadU16Imm8 raw => .load (zeroImm raw) .half extZero
  | .loadU32Imm8 raw => .load (zeroImm raw) .word extZero
  | .loadS8Imm8 raw => .load (zeroImm raw) .byte extSign8
  | .loadS16Imm8 raw => .load (zeroImm raw) .half extSign16
  | .storeU8Imm8 raw => .store (zeroImm raw) .byte
  | .storeU16Imm8 raw => .store (zeroImm raw) .half
  | .storeU32Imm8 raw => .store (zeroImm raw) .word
  | .storeU8DiscardImm8 raw => .storeDiscard (zeroImm raw) .byte
  | .storeU16DiscardImm8 raw => .storeDiscard (zeroImm raw) .half
  | .storeU32DiscardImm8 raw => .storeDiscard (zeroImm raw) .word
  | .dcopyImm8 raw => .dataCopy (zeroImm raw)
  | .pcopyImm8 raw => .programCopy (zeroImm raw)
  | .callImm8 raw => .callTo (zeroImm raw)
  | .jumpAbsImm8 raw => .jumpTo (zeroImm raw)
  | .jumpAbsIfImm8 raw => .jumpToWhen (zeroImm raw) isNonzero
  | .jumpAbsIfNotImm8 raw => .jumpToWhen (zeroImm raw) isZero
  | .jumpRelImm8 raw => .jumpBy (signImm raw)
  | .jumpRelIfImm8 raw => .jumpByWhen (signImm raw) isNonzero
  | .jumpRelIfNotImm8 raw => .jumpByWhen (signImm raw) isZero
  | .syscallImm8 raw => .sysCall (zeroImm raw)
  | .pushU16 raw => .push (raw.setWidth 32)
  | .pushS16 raw => .push (raw.signExtend 32)
  | .addImm16 raw => .binary (zeroImm raw) fAdd
  | .subImm16 raw => .binary (zeroImm raw) fSub
  | .mulImm16 raw => .binary (zeroImm raw) fMul
  | .andImm16 raw => .binary (zeroImm raw) fAnd
  | .orImm16 raw => .binary (zeroImm raw) fOr
  | .xorImm16 raw => .binary (zeroImm raw) fXor
  | .shlImm16 raw => .binary (zeroImm raw) fShl
  | .shrUiImm16 raw => .binary (zeroImm raw) fShrU
  | .shrSiImm16 raw => .binary (zeroImm raw) fShrS
  | .notImm16 raw => .unary (zeroImm raw) gNot
  | .negImm16 raw => .unary (zeroImm raw) gNeg
  | .lnotImm16 raw => .unary (zeroImm raw) gLnot
  | .eqImm16 raw => .binary (zeroImm raw) relEq
  | .neImm16 raw => .binary (zeroImm raw) relNe
  | .ltUiImm16 raw => .binary (zeroImm raw) relLtU
  | .leUiImm16 raw => .binary (zeroImm raw) relLeU
  | .gtUiImm16 raw => .binary (zeroImm raw) relGtU
  | .geUiImm16 raw => .binary (zeroImm raw) relGeU
  | .ltSiImm16 raw => .binary (signImm raw) relLtS
  | .leSiImm16 raw => .binary (signImm raw) relLeS
  | .gtSiImm16 raw => .binary (signImm raw) relGtS
  | .geSiImm16 raw => .binary (signImm raw) relGeS
  | .loadU8Imm16 raw => .load (zeroImm raw) .byte extZero
  | .loadU16Imm16 raw => .load (zeroImm raw) .half extZero
  | .loadU32Imm16 raw => .load (zeroImm raw) .word extZero
  | .loadS8Imm16 raw => .load (zeroImm raw) .byte extSign8
  | .loadS16Imm16 raw => .load (zeroImm raw) .half extSign16
  | .storeU8Imm16 raw => .store (zeroImm raw) .byte
  | .storeU16Imm16 raw => .store (zeroImm raw) .half
  | .storeU32Imm16 raw => .store (zeroImm raw) .word
  | .storeU8DiscardImm16 raw => .storeDiscard (zeroImm raw) .byte
  | .storeU16DiscardImm16 raw => .storeDiscard (zeroImm raw) .half
  | .storeU32DiscardImm16 raw => .storeDiscard (zeroImm raw) .word
  | .dcopyImm16 raw => .dataCopy (zeroImm raw)
  | .pcopyImm16 raw => .programCopy (zeroImm raw)
  | .callImm16 raw => .callTo (zeroImm raw)
  | .jumpAbsImm16 raw => .jumpTo (zeroImm raw)
  | .jumpAbsIfImm16 raw => .jumpToWhen (zeroImm raw) isNonzero
  | .jumpAbsIfNotImm16 raw => .jumpToWhen (zeroImm raw) isZero
  | .jumpRelImm16 raw => .jumpBy (signImm raw)
  | .jumpRelIfImm16 raw => .jumpByWhen (signImm raw) isNonzero
  | .jumpRelIfNotImm16 raw => .jumpByWhen (signImm raw) isZero
  | .syscallImm16 raw => .sysCall (zeroImm raw)
  | .pushU32 raw => .push (raw.setWidth 32)
  | .pushS32 raw => .push (raw.signExtend 32)
  | .addImm32 raw => .binary (zeroImm raw) fAdd
  | .subImm32 raw => .binary (zeroImm raw) fSub
  | .mulImm32 raw => .binary (zeroImm raw) fMul
  | .andImm32 raw => .binary (zeroImm raw) fAnd
  | .orImm32 raw => .binary (zeroImm raw) fOr
  | .xorImm32 raw => .binary (zeroImm raw) fXor
  | .shlImm32 raw => .binary (zeroImm raw) fShl
  | .shrUiImm32 raw => .binary (zeroImm raw) fShrU
  | .shrSiImm32 raw => .binary (zeroImm raw) fShrS
  | .notImm32 raw => .unary (zeroImm raw) gNot
  | .negImm32 raw => .unary (zeroImm raw) gNeg
  | .lnotImm32 raw => .unary (zeroImm raw) gLnot
  | .eqImm32 raw => .binary (zeroImm raw) relEq
  | .neImm32 raw => .binary (zeroImm raw) relNe
  | .ltUiImm32 raw => .binary (zeroImm raw) relLtU
  | .leUiImm32 raw => .binary (zeroImm raw) relLeU
  | .gtUiImm32 raw => .binary (zeroImm raw) relGtU
  | .geUiImm32 raw => .binary (zeroImm raw) relGeU
  | .ltSiImm32 raw => .binary (signImm raw) relLtS
  | .leSiImm32 raw => .binary (signImm raw) relLeS
  | .gtSiImm32 raw => .binary (signImm raw) relGtS
  | .geSiImm32 raw => .binary (signImm raw) relGeS
  | .loadU8Imm32 raw => .load (zeroImm raw) .byte extZero
  | .loadU16Imm32 raw => .load (zeroImm raw) .half extZero
  | .loadU32Imm32 raw => .load (zeroImm raw) .word extZero
  | .loadS8Imm32 raw => .load (zeroImm raw) .byte extSign8
  | .loadS16Imm32 raw => .load (zeroImm raw) .half extSign16
  | .storeU8Imm32 raw => .store (zeroImm raw) .byte
  | .storeU16Imm32 raw => .store (zeroImm raw) .half
  | .storeU32Imm32 raw => .store (zeroImm raw) .word
  | .storeU8DiscardImm32 raw => .storeDiscard (zeroImm raw) .byte
  | .storeU16DiscardImm32 raw => .storeDiscard (zeroImm raw) .half
  | .storeU32DiscardImm32 raw => .storeDiscard (zeroImm raw) .word
  | .dcopyImm32 raw => .dataCopy (zeroImm raw)
  | .pcopyImm32 raw => .programCopy (zeroImm raw)
  | .callImm32 raw => .callTo (zeroImm raw)
  | .jumpAbsImm32 raw => .jumpTo (zeroImm raw)
  | .jumpAbsIfImm32 raw => .jumpToWhen (zeroImm raw) isNonzero
  | .jumpAbsIfNotImm32 raw => .jumpToWhen (zeroImm raw) isZero
  | .jumpRelImm32 raw => .jumpBy (signImm raw)
  | .jumpRelIfImm32 raw => .jumpByWhen (signImm raw) isNonzero
  | .jumpRelIfNotImm32 raw => .jumpByWhen (signImm raw) isZero
  | .syscallImm32 raw => .sysCall (zeroImm raw)

/-- An instruction runs its shape. -/
theorem exec_eq_run (i : Instr) (s : State) : exec i s = (shapeOf i).run s := by
  cases i <;> rfl

end Sys2Proof.Machine
end

