-- ==== Sys2Proof/Tests/Slice0.lean ====
section
/-! SUPPORT. The model's own tests: the checks of WellFormed refuse ill-formed terms, every constructor's
encoding written out from 30_encoding.md decodes to it, the vectors of 95_test_vectors.md as single
steps, and for every obligation with hypotheses a state that meets them. -/

open Sys2Proof Sys2Proof.Machine Sys2Proof.Claims

namespace Sys2Proof.Tests

/-! ## Helpers -/

/-- A machine under the conventions of 95_test_vectors.md, running `exec(1)` at address `at_`: the bytes
of the instruction there, the stack bottom to top, the data bytes from address 0. -/
def vmAt (at_ : Nat) (bytes : List Byte) (bottomUp : List Word) (data : List Byte := []) : State :=
  { State.reset with
    ip := BitVec.ofNat 32 at_
    sp := 8 - bottomUp.length
    stack := List.replicate (8 - bottomUp.length) 0 ++ bottomUp.reverse
    program := writeBytes ⟨at_ + bytes.length, []⟩ at_ bytes
    data := writeBytes ⟨16, []⟩ 0 data
    budget := 1 }

/-- The same at address 0. -/
def vm (bytes : List Byte) (bottomUp : List Word) (data : List Byte := []) : State :=
  vmAt 0 bytes bottomUp data

/-- Eight values: a full stack. -/
def eight : List Word := [1, 2, 3, 4, 5, 6, 7, 8]

/-- What a vector gives: the stack bottom to top, `err` and `ip`. -/
def result (o : Host.Outcome State Fault Refusal) : Option (List Word × ErrCode × Word) :=
  match o with
  | .next t => some (t.live.reverse, t.err, t.ip)
  | _ => none

/-- The data bytes after a step, from `a` on. -/
def dataAfter (o : Host.Outcome State Fault Refusal) (a n : Nat) : Option (List Byte) :=
  match o with
  | .next t => some (bytesAt t.data a n)
  | _ => none

/-- A host with one call to make. -/
def calling (c : HostCall) (s : State) : State := { s with budget := 0, calls := [c] }

/-- An initialised encoder and decoder. -/
def withCodec (s : State) : State :=
  { s with enc := { s.enc with bound := true }, dec := { s.dec with bound := true } }

/-! ## The checks of WellFormed refuse ill-formed terms -/

theorem test_reserved_selector_refused :
    formLegal 0x06 .S = false ∧ formLegal 0x2D .I8 = false ∧ formLegal 0x3E .I32 = false := by decide

theorem test_push_without_immediate_refused :
    formLegal 0x01 .S = false ∧ formLegal 0x02 .S = false ∧ formLegal 0x01 .I8 = true := by decide

theorem test_halt_with_immediate_refused :
    formLegal 0x00 .I8 = false ∧ formLegal 0x03 .I16 = false ∧ formLegal 0x05 .I32 = false ∧
      formLegal 0x00 .S = true := by decide

theorem test_illegal_opcode_refused :
    opcodeLegal 0x06 = false ∧ opcodeLegal 0x01 = false ∧ opcodeLegal 0x40 = false ∧
      opcodeLegal 0x3F = true := by decide

theorem test_asm_immediate_out_of_range_refused :
    AsmLine.wellFormed ⟨0x01, .I8, 256⟩ = false ∧ AsmLine.wellFormed ⟨0x01, .I8, -129⟩ = false ∧
      AsmLine.wellFormed ⟨0x01, .I8, 255⟩ = true ∧ AsmLine.wellFormed ⟨0x01, .I8, -128⟩ = true ∧
      AsmLine.wellFormed ⟨0x08, .S, 1⟩ = false := by decide

theorem test_asm_illegal_form_refused :
    AsmLine.wellFormed ⟨0x01, .S, 0⟩ = false ∧ assemble ⟨0x00, .I8, 0⟩ = none := by decide

theorem test_asm_negative_immediate :
    assemble ⟨0x34, .I8, -2⟩ = some (.jumpRelImm8 0xFE) := by decide

theorem test_cells_not_rising_refused :
    Buffer.wf ⟨16, [(3, 1), (2, 1)]⟩ = false ∧ Buffer.wf ⟨16, [(3, 1), (3, 2)]⟩ = false ∧
      Buffer.wf ⟨16, [(2, 1), (3, 1)]⟩ = true := by decide

theorem test_cell_zero_or_outside_refused :
    Buffer.wf ⟨16, [(3, 0)]⟩ = false ∧ Buffer.wf ⟨16, [(16, 1)]⟩ = false ∧
      Buffer.wf ⟨16, [(15, 1)]⟩ = true := by decide

theorem test_buffer_too_long_refused :
    Buffer.wf ⟨2 ^ 32, []⟩ = false ∧ Buffer.wf ⟨2 ^ 32 - 1, []⟩ = true := by decide

theorem test_params_refused :
    Params.wellFormed ⟨0, ⟨0, []⟩, ⟨0, []⟩, none⟩ = false ∧
      Params.wellFormed ⟨2 ^ 32, ⟨0, []⟩, ⟨0, []⟩, none⟩ = false ∧
      Params.wellFormed ⟨1, ⟨1, [(0, 0)]⟩, ⟨0, []⟩, none⟩ = false ∧
      Params.wellFormed ⟨1, ⟨0, []⟩, ⟨1, [(1, 1)]⟩, none⟩ = false ∧
      Params.wellFormed ⟨1, ⟨0, []⟩, ⟨0, []⟩, none⟩ = true := by decide

theorem test_undutiful_hook_refused :
    hookRunDutiful [.pop, .breach .writesIp] = false ∧ hookRunDutiful [.raise .success] = false ∧
      hookRunDutiful [.spin] = false ∧ hookRunDutiful [.pop, .push 1, .raise .halted] = true := by
  decide

/-! ## Encodings written out from 30_encoding.md -/

theorem test_decode_halt :
    decode [0x00] = .instr .halt [] := by decide

theorem test_decode_push_u :
    decode [0x41, 0xA5] = .instr (.pushU8 0xA5) [] ∧
    decode [0x81, 0xC3, 0xB4] = .instr (.pushU16 0xB4C3) [] ∧
    decode [0xC1, 0x12, 0x34, 0x56, 0xF8] = .instr (.pushU32 0xF8563412) [] := by decide

theorem test_decode_push_s :
    decode [0x42, 0xA5] = .instr (.pushS8 0xA5) [] ∧
    decode [0x82, 0xC3, 0xB4] = .instr (.pushS16 0xB4C3) [] ∧
    decode [0xC2, 0x12, 0x34, 0x56, 0xF8] = .instr (.pushS32 0xF8563412) [] := by decide

theorem test_decode_drop :
    decode [0x03] = .instr .drop [] := by decide

theorem test_decode_dup :
    decode [0x04] = .instr .dup [] := by decide

theorem test_decode_swap :
    decode [0x05] = .instr .swap [] := by decide

theorem test_decode_add :
    decode [0x08] = .instr .add [] ∧
    decode [0x48, 0xA5] = .instr (.addImm8 0xA5) [] ∧
    decode [0x88, 0xC3, 0xB4] = .instr (.addImm16 0xB4C3) [] ∧
    decode [0xC8, 0x12, 0x34, 0x56, 0xF8] = .instr (.addImm32 0xF8563412) [] := by decide

theorem test_decode_sub :
    decode [0x09] = .instr .sub [] ∧
    decode [0x49, 0xA5] = .instr (.subImm8 0xA5) [] ∧
    decode [0x89, 0xC3, 0xB4] = .instr (.subImm16 0xB4C3) [] ∧
    decode [0xC9, 0x12, 0x34, 0x56, 0xF8] = .instr (.subImm32 0xF8563412) [] := by decide

theorem test_decode_mul :
    decode [0x0A] = .instr .mul [] ∧
    decode [0x4A, 0xA5] = .instr (.mulImm8 0xA5) [] ∧
    decode [0x8A, 0xC3, 0xB4] = .instr (.mulImm16 0xB4C3) [] ∧
    decode [0xCA, 0x12, 0x34, 0x56, 0xF8] = .instr (.mulImm32 0xF8563412) [] := by decide

theorem test_decode_and :
    decode [0x0B] = .instr .and [] ∧
    decode [0x4B, 0xA5] = .instr (.andImm8 0xA5) [] ∧
    decode [0x8B, 0xC3, 0xB4] = .instr (.andImm16 0xB4C3) [] ∧
    decode [0xCB, 0x12, 0x34, 0x56, 0xF8] = .instr (.andImm32 0xF8563412) [] := by decide

theorem test_decode_or :
    decode [0x0C] = .instr .or [] ∧
    decode [0x4C, 0xA5] = .instr (.orImm8 0xA5) [] ∧
    decode [0x8C, 0xC3, 0xB4] = .instr (.orImm16 0xB4C3) [] ∧
    decode [0xCC, 0x12, 0x34, 0x56, 0xF8] = .instr (.orImm32 0xF8563412) [] := by decide

theorem test_decode_xor :
    decode [0x0D] = .instr .xor [] ∧
    decode [0x4D, 0xA5] = .instr (.xorImm8 0xA5) [] ∧
    decode [0x8D, 0xC3, 0xB4] = .instr (.xorImm16 0xB4C3) [] ∧
    decode [0xCD, 0x12, 0x34, 0x56, 0xF8] = .instr (.xorImm32 0xF8563412) [] := by decide

theorem test_decode_shl :
    decode [0x0E] = .instr .shl [] ∧
    decode [0x4E, 0xA5] = .instr (.shlImm8 0xA5) [] ∧
    decode [0x8E, 0xC3, 0xB4] = .instr (.shlImm16 0xB4C3) [] ∧
    decode [0xCE, 0x12, 0x34, 0x56, 0xF8] = .instr (.shlImm32 0xF8563412) [] := by decide

theorem test_decode_shr_ui :
    decode [0x0F] = .instr .shrUi [] ∧
    decode [0x4F, 0xA5] = .instr (.shrUiImm8 0xA5) [] ∧
    decode [0x8F, 0xC3, 0xB4] = .instr (.shrUiImm16 0xB4C3) [] ∧
    decode [0xCF, 0x12, 0x34, 0x56, 0xF8] = .instr (.shrUiImm32 0xF8563412) [] := by decide

theorem test_decode_shr_si :
    decode [0x10] = .instr .shrSi [] ∧
    decode [0x50, 0xA5] = .instr (.shrSiImm8 0xA5) [] ∧
    decode [0x90, 0xC3, 0xB4] = .instr (.shrSiImm16 0xB4C3) [] ∧
    decode [0xD0, 0x12, 0x34, 0x56, 0xF8] = .instr (.shrSiImm32 0xF8563412) [] := by decide

theorem test_decode_not :
    decode [0x11] = .instr .not [] ∧
    decode [0x51, 0xA5] = .instr (.notImm8 0xA5) [] ∧
    decode [0x91, 0xC3, 0xB4] = .instr (.notImm16 0xB4C3) [] ∧
    decode [0xD1, 0x12, 0x34, 0x56, 0xF8] = .instr (.notImm32 0xF8563412) [] := by decide

theorem test_decode_neg :
    decode [0x12] = .instr .neg [] ∧
    decode [0x52, 0xA5] = .instr (.negImm8 0xA5) [] ∧
    decode [0x92, 0xC3, 0xB4] = .instr (.negImm16 0xB4C3) [] ∧
    decode [0xD2, 0x12, 0x34, 0x56, 0xF8] = .instr (.negImm32 0xF8563412) [] := by decide

theorem test_decode_lnot :
    decode [0x13] = .instr .lnot [] ∧
    decode [0x53, 0xA5] = .instr (.lnotImm8 0xA5) [] ∧
    decode [0x93, 0xC3, 0xB4] = .instr (.lnotImm16 0xB4C3) [] ∧
    decode [0xD3, 0x12, 0x34, 0x56, 0xF8] = .instr (.lnotImm32 0xF8563412) [] := by decide

theorem test_decode_eq :
    decode [0x14] = .instr .eq [] ∧
    decode [0x54, 0xA5] = .instr (.eqImm8 0xA5) [] ∧
    decode [0x94, 0xC3, 0xB4] = .instr (.eqImm16 0xB4C3) [] ∧
    decode [0xD4, 0x12, 0x34, 0x56, 0xF8] = .instr (.eqImm32 0xF8563412) [] := by decide

theorem test_decode_ne :
    decode [0x15] = .instr .ne [] ∧
    decode [0x55, 0xA5] = .instr (.neImm8 0xA5) [] ∧
    decode [0x95, 0xC3, 0xB4] = .instr (.neImm16 0xB4C3) [] ∧
    decode [0xD5, 0x12, 0x34, 0x56, 0xF8] = .instr (.neImm32 0xF8563412) [] := by decide

theorem test_decode_lt_ui :
    decode [0x16] = .instr .ltUi [] ∧
    decode [0x56, 0xA5] = .instr (.ltUiImm8 0xA5) [] ∧
    decode [0x96, 0xC3, 0xB4] = .instr (.ltUiImm16 0xB4C3) [] ∧
    decode [0xD6, 0x12, 0x34, 0x56, 0xF8] = .instr (.ltUiImm32 0xF8563412) [] := by decide

theorem test_decode_le_ui :
    decode [0x17] = .instr .leUi [] ∧
    decode [0x57, 0xA5] = .instr (.leUiImm8 0xA5) [] ∧
    decode [0x97, 0xC3, 0xB4] = .instr (.leUiImm16 0xB4C3) [] ∧
    decode [0xD7, 0x12, 0x34, 0x56, 0xF8] = .instr (.leUiImm32 0xF8563412) [] := by decide

theorem test_decode_gt_ui :
    decode [0x18] = .instr .gtUi [] ∧
    decode [0x58, 0xA5] = .instr (.gtUiImm8 0xA5) [] ∧
    decode [0x98, 0xC3, 0xB4] = .instr (.gtUiImm16 0xB4C3) [] ∧
    decode [0xD8, 0x12, 0x34, 0x56, 0xF8] = .instr (.gtUiImm32 0xF8563412) [] := by decide

theorem test_decode_ge_ui :
    decode [0x19] = .instr .geUi [] ∧
    decode [0x59, 0xA5] = .instr (.geUiImm8 0xA5) [] ∧
    decode [0x99, 0xC3, 0xB4] = .instr (.geUiImm16 0xB4C3) [] ∧
    decode [0xD9, 0x12, 0x34, 0x56, 0xF8] = .instr (.geUiImm32 0xF8563412) [] := by decide

theorem test_decode_lt_si :
    decode [0x1A] = .instr .ltSi [] ∧
    decode [0x5A, 0xA5] = .instr (.ltSiImm8 0xA5) [] ∧
    decode [0x9A, 0xC3, 0xB4] = .instr (.ltSiImm16 0xB4C3) [] ∧
    decode [0xDA, 0x12, 0x34, 0x56, 0xF8] = .instr (.ltSiImm32 0xF8563412) [] := by decide

theorem test_decode_le_si :
    decode [0x1B] = .instr .leSi [] ∧
    decode [0x5B, 0xA5] = .instr (.leSiImm8 0xA5) [] ∧
    decode [0x9B, 0xC3, 0xB4] = .instr (.leSiImm16 0xB4C3) [] ∧
    decode [0xDB, 0x12, 0x34, 0x56, 0xF8] = .instr (.leSiImm32 0xF8563412) [] := by decide

theorem test_decode_gt_si :
    decode [0x1C] = .instr .gtSi [] ∧
    decode [0x5C, 0xA5] = .instr (.gtSiImm8 0xA5) [] ∧
    decode [0x9C, 0xC3, 0xB4] = .instr (.gtSiImm16 0xB4C3) [] ∧
    decode [0xDC, 0x12, 0x34, 0x56, 0xF8] = .instr (.gtSiImm32 0xF8563412) [] := by decide

theorem test_decode_ge_si :
    decode [0x1D] = .instr .geSi [] ∧
    decode [0x5D, 0xA5] = .instr (.geSiImm8 0xA5) [] ∧
    decode [0x9D, 0xC3, 0xB4] = .instr (.geSiImm16 0xB4C3) [] ∧
    decode [0xDD, 0x12, 0x34, 0x56, 0xF8] = .instr (.geSiImm32 0xF8563412) [] := by decide

theorem test_decode_load_u8 :
    decode [0x20] = .instr .loadU8 [] ∧
    decode [0x60, 0xA5] = .instr (.loadU8Imm8 0xA5) [] ∧
    decode [0xA0, 0xC3, 0xB4] = .instr (.loadU8Imm16 0xB4C3) [] ∧
    decode [0xE0, 0x12, 0x34, 0x56, 0xF8] = .instr (.loadU8Imm32 0xF8563412) [] := by decide

theorem test_decode_load_u16 :
    decode [0x21] = .instr .loadU16 [] ∧
    decode [0x61, 0xA5] = .instr (.loadU16Imm8 0xA5) [] ∧
    decode [0xA1, 0xC3, 0xB4] = .instr (.loadU16Imm16 0xB4C3) [] ∧
    decode [0xE1, 0x12, 0x34, 0x56, 0xF8] = .instr (.loadU16Imm32 0xF8563412) [] := by decide

theorem test_decode_load_u32 :
    decode [0x22] = .instr .loadU32 [] ∧
    decode [0x62, 0xA5] = .instr (.loadU32Imm8 0xA5) [] ∧
    decode [0xA2, 0xC3, 0xB4] = .instr (.loadU32Imm16 0xB4C3) [] ∧
    decode [0xE2, 0x12, 0x34, 0x56, 0xF8] = .instr (.loadU32Imm32 0xF8563412) [] := by decide

theorem test_decode_load_s8 :
    decode [0x23] = .instr .loadS8 [] ∧
    decode [0x63, 0xA5] = .instr (.loadS8Imm8 0xA5) [] ∧
    decode [0xA3, 0xC3, 0xB4] = .instr (.loadS8Imm16 0xB4C3) [] ∧
    decode [0xE3, 0x12, 0x34, 0x56, 0xF8] = .instr (.loadS8Imm32 0xF8563412) [] := by decide

theorem test_decode_load_s16 :
    decode [0x24] = .instr .loadS16 [] ∧
    decode [0x64, 0xA5] = .instr (.loadS16Imm8 0xA5) [] ∧
    decode [0xA4, 0xC3, 0xB4] = .instr (.loadS16Imm16 0xB4C3) [] ∧
    decode [0xE4, 0x12, 0x34, 0x56, 0xF8] = .instr (.loadS16Imm32 0xF8563412) [] := by decide

theorem test_decode_store_u8 :
    decode [0x25] = .instr .storeU8 [] ∧
    decode [0x65, 0xA5] = .instr (.storeU8Imm8 0xA5) [] ∧
    decode [0xA5, 0xC3, 0xB4] = .instr (.storeU8Imm16 0xB4C3) [] ∧
    decode [0xE5, 0x12, 0x34, 0x56, 0xF8] = .instr (.storeU8Imm32 0xF8563412) [] := by decide

theorem test_decode_store_u16 :
    decode [0x26] = .instr .storeU16 [] ∧
    decode [0x66, 0xA5] = .instr (.storeU16Imm8 0xA5) [] ∧
    decode [0xA6, 0xC3, 0xB4] = .instr (.storeU16Imm16 0xB4C3) [] ∧
    decode [0xE6, 0x12, 0x34, 0x56, 0xF8] = .instr (.storeU16Imm32 0xF8563412) [] := by decide

theorem test_decode_store_u32 :
    decode [0x27] = .instr .storeU32 [] ∧
    decode [0x67, 0xA5] = .instr (.storeU32Imm8 0xA5) [] ∧
    decode [0xA7, 0xC3, 0xB4] = .instr (.storeU32Imm16 0xB4C3) [] ∧
    decode [0xE7, 0x12, 0x34, 0x56, 0xF8] = .instr (.storeU32Imm32 0xF8563412) [] := by decide

theorem test_decode_store_u8_discard :
    decode [0x28] = .instr .storeU8Discard [] ∧
    decode [0x68, 0xA5] = .instr (.storeU8DiscardImm8 0xA5) [] ∧
    decode [0xA8, 0xC3, 0xB4] = .instr (.storeU8DiscardImm16 0xB4C3) [] ∧
    decode [0xE8, 0x12, 0x34, 0x56, 0xF8] = .instr (.storeU8DiscardImm32 0xF8563412) [] := by decide

theorem test_decode_store_u16_discard :
    decode [0x29] = .instr .storeU16Discard [] ∧
    decode [0x69, 0xA5] = .instr (.storeU16DiscardImm8 0xA5) [] ∧
    decode [0xA9, 0xC3, 0xB4] = .instr (.storeU16DiscardImm16 0xB4C3) [] ∧
    decode [0xE9, 0x12, 0x34, 0x56, 0xF8] = .instr (.storeU16DiscardImm32 0xF8563412) [] := by decide

theorem test_decode_store_u32_discard :
    decode [0x2A] = .instr .storeU32Discard [] ∧
    decode [0x6A, 0xA5] = .instr (.storeU32DiscardImm8 0xA5) [] ∧
    decode [0xAA, 0xC3, 0xB4] = .instr (.storeU32DiscardImm16 0xB4C3) [] ∧
    decode [0xEA, 0x12, 0x34, 0x56, 0xF8] = .instr (.storeU32DiscardImm32 0xF8563412) [] := by decide

theorem test_decode_dcopy :
    decode [0x2B] = .instr .dcopy [] ∧
    decode [0x6B, 0xA5] = .instr (.dcopyImm8 0xA5) [] ∧
    decode [0xAB, 0xC3, 0xB4] = .instr (.dcopyImm16 0xB4C3) [] ∧
    decode [0xEB, 0x12, 0x34, 0x56, 0xF8] = .instr (.dcopyImm32 0xF8563412) [] := by decide

theorem test_decode_pcopy :
    decode [0x2C] = .instr .pcopy [] ∧
    decode [0x6C, 0xA5] = .instr (.pcopyImm8 0xA5) [] ∧
    decode [0xAC, 0xC3, 0xB4] = .instr (.pcopyImm16 0xB4C3) [] ∧
    decode [0xEC, 0x12, 0x34, 0x56, 0xF8] = .instr (.pcopyImm32 0xF8563412) [] := by decide

theorem test_decode_call :
    decode [0x30] = .instr .call [] ∧
    decode [0x70, 0xA5] = .instr (.callImm8 0xA5) [] ∧
    decode [0xB0, 0xC3, 0xB4] = .instr (.callImm16 0xB4C3) [] ∧
    decode [0xF0, 0x12, 0x34, 0x56, 0xF8] = .instr (.callImm32 0xF8563412) [] := by decide

theorem test_decode_jump_abs :
    decode [0x31] = .instr .jumpAbs [] ∧
    decode [0x71, 0xA5] = .instr (.jumpAbsImm8 0xA5) [] ∧
    decode [0xB1, 0xC3, 0xB4] = .instr (.jumpAbsImm16 0xB4C3) [] ∧
    decode [0xF1, 0x12, 0x34, 0x56, 0xF8] = .instr (.jumpAbsImm32 0xF8563412) [] := by decide

theorem test_decode_jump_abs_if :
    decode [0x32] = .instr .jumpAbsIf [] ∧
    decode [0x72, 0xA5] = .instr (.jumpAbsIfImm8 0xA5) [] ∧
    decode [0xB2, 0xC3, 0xB4] = .instr (.jumpAbsIfImm16 0xB4C3) [] ∧
    decode [0xF2, 0x12, 0x34, 0x56, 0xF8] = .instr (.jumpAbsIfImm32 0xF8563412) [] := by decide

theorem test_decode_jump_abs_if_not :
    decode [0x33] = .instr .jumpAbsIfNot [] ∧
    decode [0x73, 0xA5] = .instr (.jumpAbsIfNotImm8 0xA5) [] ∧
    decode [0xB3, 0xC3, 0xB4] = .instr (.jumpAbsIfNotImm16 0xB4C3) [] ∧
    decode [0xF3, 0x12, 0x34, 0x56, 0xF8] = .instr (.jumpAbsIfNotImm32 0xF8563412) [] := by decide

theorem test_decode_jump_rel :
    decode [0x34] = .instr .jumpRel [] ∧
    decode [0x74, 0xA5] = .instr (.jumpRelImm8 0xA5) [] ∧
    decode [0xB4, 0xC3, 0xB4] = .instr (.jumpRelImm16 0xB4C3) [] ∧
    decode [0xF4, 0x12, 0x34, 0x56, 0xF8] = .instr (.jumpRelImm32 0xF8563412) [] := by decide

theorem test_decode_jump_rel_if :
    decode [0x35] = .instr .jumpRelIf [] ∧
    decode [0x75, 0xA5] = .instr (.jumpRelIfImm8 0xA5) [] ∧
    decode [0xB5, 0xC3, 0xB4] = .instr (.jumpRelIfImm16 0xB4C3) [] ∧
    decode [0xF5, 0x12, 0x34, 0x56, 0xF8] = .instr (.jumpRelIfImm32 0xF8563412) [] := by decide

theorem test_decode_jump_rel_if_not :
    decode [0x36] = .instr .jumpRelIfNot [] ∧
    decode [0x76, 0xA5] = .instr (.jumpRelIfNotImm8 0xA5) [] ∧
    decode [0xB6, 0xC3, 0xB4] = .instr (.jumpRelIfNotImm16 0xB4C3) [] ∧
    decode [0xF6, 0x12, 0x34, 0x56, 0xF8] = .instr (.jumpRelIfNotImm32 0xF8563412) [] := by decide

theorem test_decode_syscall :
    decode [0x3F] = .instr .syscall [] ∧
    decode [0x7F, 0xA5] = .instr (.syscallImm8 0xA5) [] ∧
    decode [0xBF, 0xC3, 0xB4] = .instr (.syscallImm16 0xB4C3) [] ∧
    decode [0xFF, 0x12, 0x34, 0x56, 0xF8] = .instr (.syscallImm32 0xF8563412) [] := by decide

theorem test_decode_rejects_by_name :
    decode [] = .rejected .noBytes ∧ decode [0x88, 0x01] = .rejected .immediateCutShort ∧
    decode [0x3E] = .rejected (.reservedSelector 0x3E) ∧
    decode [0x01] = .rejected (.illegalForm 0x01) := by decide

/-- The table's numbering: bit 0 is the least significant bit of the first byte; bits above are 0. -/
theorem test_decodeTableWord :
    decodeTableWord 8 0x88 = some (.addImm16 0) ∧ decodeTableWord 24 0xB4C388 = some (.addImm16 0xB4C3) ∧
    decodeTableWord 8 0x06 = none := by decide

theorem test_withFetchWord_runs :
    result (step (State.reset.withFetchWord 16 0x0541)) = some ([5], .success, 2) ∧
    result (step (State.reset.withFetchWord 8 0x00)) = some ([], .halted, 1) := by decide

/-! ## Vectors of 95_test_vectors.md, one step each -/

/-- Vectors VF1, VF2, VF5, VF8. -/
theorem test_fetch_cut_short :
    result (step (vm [0x41] [])) = some ([], .programAddressOutOfBounds, 0) ∧
    result (step (vm [0x88, 0x01] [0x5])) = some ([0x5], .programAddressOutOfBounds, 0) ∧
    result (step (vm [0xC6, 0x01, 0x02] [])) = some ([], .programAddressOutOfBounds, 0) ∧
    result (step (vm [] [])) = some ([], .programAddressOutOfBounds, 0) := by decide

/-- Vectors VF3, VF4, VF6, VF7. -/
theorem test_bad_opcode :
    result (step (vm [0x06] [])) = some ([], .badOpcode, 1) ∧
    result (step (vm [0xC6, 0x01, 0x02, 0x03, 0x04] [])) = some ([], .badOpcode, 5) ∧
    result (step (vm [0x01] [0x9])) = some ([0x9], .badOpcode, 1) ∧
    result (step (vm [0x40, 0x00] [])) = some ([], .badOpcode, 2) := by decide

/-- Vectors VS1-VS4. -/
theorem test_push_extends :
    result (step (vm [0x41, 0xFF] [])) = some ([0xFF], .success, 2) ∧
    result (step (vm [0x42, 0xFF] [])) = some ([0xFFFFFFFF], .success, 2) ∧
    result (step (vm [0x81, 0x00, 0x80] [])) = some ([0x8000], .success, 3) ∧
    result (step (vm [0x82, 0x00, 0x80] [])) = some ([0xFFFF8000], .success, 3) := by decide

/-- Vectors VF9, VS5, VS6. -/
theorem test_push_words :
    result (step (vm [0xC1, 0x78, 0x56, 0x34, 0x12] [])) = some ([0x12345678], .success, 5) ∧
    result (step (vm [0xC2, 0x00, 0x00, 0x00, 0x80] [])) = some ([0x80000000], .success, 5) ∧
    result (step (vm [0x41, 0x01] eight)) = some (eight, .stackFull, 2) := by decide

/-- Vectors VS7, VS8. -/
theorem test_drop :
    result (step (vm [0x03] [0x5, 0x7])) = some ([0x5], .success, 1) ∧
    result (step (vm [0x03] [])) = some ([], .stackEmpty, 1) := by decide

/-- Vectors VS9, VS10. -/
theorem test_dup :
    result (step (vm [0x04] [0x9])) = some ([0x9, 0x9], .success, 1) ∧
    result (step (vm [0x04] eight)) = some (eight, .stackFull, 1) := by decide

/-- Vectors VS11, VS12. -/
theorem test_swap :
    result (step (vm [0x05] [0x1, 0x2])) = some ([0x2, 0x1], .success, 1) ∧
    result (step (vm [0x05] [0x1])) = some ([], .stackEmpty, 1) := by decide

/-- Vectors VA1-VA4. -/
theorem test_add :
    result (step (vm [0x08] [0xFFFFFFFF, 0x1])) = some ([0x0], .success, 1) ∧
    result (step (vm [0x48, 0x01] [0x7FFFFFFF])) = some ([0x80000000], .success, 2) ∧
    result (step (vm [0x48, 0xFF] [0x1])) = some ([0x100], .success, 2) ∧
    result (step (vm [0xC8, 0xFF, 0xFF, 0xFF, 0xFF] [0x1])) = some ([0x0], .success, 5) := by decide

/-- Vectors VA31, VA32. -/
theorem test_add_empty :
    result (step (vm [0x08] [0x5])) = some ([], .stackEmpty, 1) ∧
    result (step (vm [0x48, 0x04] [])) = some ([], .stackEmpty, 2) := by decide

/-- Vectors VA5-VA7. -/
theorem test_sub :
    result (step (vm [0x09] [0x0, 0x1])) = some ([0xFFFFFFFF], .success, 1) ∧
    result (step (vm [0x09] [0x3, 0xA])) = some ([0xFFFFFFF9], .success, 1) ∧
    result (step (vm [0x49, 0x03] [0xA])) = some ([0x7], .success, 2) := by decide

/-- Vectors VA8, VA9. -/
theorem test_mul :
    result (step (vm [0x0A] [0x10000, 0x10000])) = some ([0x0], .success, 1) ∧
    result (step (vm [0x0A] [0xFFFFFFFF, 0xFFFFFFFF])) = some ([0x1], .success, 1) := by decide

/-- Vectors VA10-VA12. -/
theorem test_bitwise :
    result (step (vm [0x4B, 0xFF] [0xFFFFFFFF])) = some ([0xFF], .success, 2) ∧
    result (step (vm [0x4C, 0x05] [0x50])) = some ([0x55], .success, 2) ∧
    result (step (vm [0x0D] [0x1234, 0x1234])) = some ([0x0], .success, 1) := by decide

/-- Vectors VA13-VA16. -/
theorem test_shl :
    result (step (vm [0x4E, 0x1F] [0x1])) = some ([0x80000000], .success, 2) ∧
    result (step (vm [0x4E, 0x20] [0x1])) = some ([0x0], .success, 2) ∧
    result (step (vm [0x0E] [0x1, 0xFFFFFFFF])) = some ([0x0], .success, 1) ∧
    result (step (vm [0x4E, 0x00] [0x1])) = some ([0x1], .success, 2) := by decide

/-- Vectors VA17, VA18. -/
theorem test_shr_ui :
    result (step (vm [0x4F, 0x1F] [0x80000000])) = some ([0x1], .success, 2) ∧
    result (step (vm [0x4F, 0x20] [0x80000000])) = some ([0x0], .success, 2) := by decide

/-- Vectors VA19-VA22. -/
theorem test_shr_si :
    result (step (vm [0x50, 0x1F] [0x80000000])) = some ([0xFFFFFFFF], .success, 2) ∧
    result (step (vm [0x50, 0x20] [0x80000000])) = some ([0xFFFFFFFF], .success, 2) ∧
    result (step (vm [0x50, 0x28] [0x7FFFFFFF])) = some ([0x0], .success, 2) ∧
    result (step (vm [0x50, 0x02] [0xFFFFFFF0])) = some ([0xFFFFFFFC], .success, 2) := by decide

/-- Vectors VA23-VA25. -/
theorem test_not :
    result (step (vm [0x11] [0x0])) = some ([0xFFFFFFFF], .success, 1) ∧
    result (step (vm [0x51, 0x0F] [])) = some ([0xFFFFFFF0], .success, 2) ∧
    result (step (vm [0x51, 0x0F] eight)) = some (eight, .stackFull, 2) := by decide

/-- Vectors VA26-VA28. -/
theorem test_neg :
    result (step (vm [0x12] [0x80000000])) = some ([0x80000000], .success, 1) ∧
    result (step (vm [0x12] [0x5])) = some ([0xFFFFFFFB], .success, 1) ∧
    result (step (vm [0x52, 0x01] [])) = some ([0xFFFFFFFF], .success, 2) := by decide

/-- Vectors VA29, VA30. -/
theorem test_lnot :
    result (step (vm [0x13] [0x0])) = some ([0x1], .success, 1) ∧
    result (step (vm [0x13] [0x80000000])) = some ([0x0], .success, 1) := by decide

/-- Vectors VC1-VC3. -/
theorem test_equality :
    result (step (vm [0x14] [0x5, 0x5])) = some ([0x1], .success, 1) ∧
    result (step (vm [0x54, 0xFF] [0xFFFFFFFF])) = some ([0x0], .success, 2) ∧
    result (step (vm [0x55, 0xFF] [0xFFFFFFFF])) = some ([0x1], .success, 2) := by decide

/-- Vectors VC4-VC6. -/
theorem test_lt :
    result (step (vm [0x16] [0xFFFFFFFF, 0x0])) = some ([0x0], .success, 1) ∧
    result (step (vm [0x16] [0x0, 0xFFFFFFFF])) = some ([0x1], .success, 1) ∧
    result (step (vm [0x1A] [0xFFFFFFFF, 0x0])) = some ([0x1], .success, 1) := by decide

/-- Vectors VC7, VC8, VC14. -/
theorem test_le :
    result (step (vm [0x5B, 0xFF] [0xFFFFFFFF])) = some ([0x1], .success, 2) ∧
    result (step (vm [0x57, 0xFF] [0xFFFFFFFF])) = some ([0x0], .success, 2) ∧
    result (step (vm [0x1B] [0x3])) = some ([], .stackEmpty, 1) := by decide

/-- Vectors VC9, VC10. -/
theorem test_gt :
    result (step (vm [0x1C] [0x80000000, 0x7FFFFFFF])) = some ([0x0], .success, 1) ∧
    result (step (vm [0x18] [0x80000000, 0x7FFFFFFF])) = some ([0x1], .success, 1) := by decide

/-- Vectors VC11-VC13. -/
theorem test_ge :
    result (step (vm [0x9D, 0x00, 0x80] [0xFFFF8000])) = some ([0x1], .success, 3) ∧
    result (step (vm [0x99, 0x00, 0x80] [0x8000])) = some ([0x1], .success, 3) ∧
    result (step (vm [0x9D, 0x00, 0x80] [0x8000])) = some ([0x1], .success, 3) := by decide

/-- Vectors VL1, VL2, VL15, VL16. -/
theorem test_load_u8 :
    result (step (vm [0x60, 0x0F] [] [0x00, 0x00, 0x00, 0x00, 0x00, 0x00, 0x00, 0x00, 0x00, 0x00, 0x00, 0x00, 0x00, 0x00, 0x00, 0xAB])) = some ([0xAB], .success, 2) ∧
    result (step (vm [0x60, 0x10] [])) = some ([], .dataAddressOutOfBounds, 2) ∧
    result (step (vm [0x60, 0xFF] eight)) = some (eight, .dataAddressOutOfBounds, 2) ∧
    result (step (vm [0x60, 0x00] eight)) = some (eight, .stackFull, 2) := by decide

/-- Vectors VL3, VL4, VL17. -/
theorem test_load_u16 :
    result (step (vm [0x61, 0x0F] [])) = some ([], .dataAddressOutOfBounds, 2) ∧
    result (step (vm [0x61, 0x0E] [] [0x00, 0x00, 0x00, 0x00, 0x00, 0x00, 0x00, 0x00, 0x00, 0x00, 0x00, 0x00, 0x00, 0x00, 0x34, 0x12])) = some ([0x1234], .success, 2) ∧
    result (step (vm [0x61, 0x01] [] [0x44, 0x33, 0x22, 0x11])) = some ([0x2233], .success, 2) := by decide

/-- Vectors VL5. -/
theorem test_load_u32 :
    result (step (vm [0x22] [0xFFFFFFFE])) = some ([], .dataAddressOutOfBounds, 1) ∧
    result (step (vm [0x22] [0x0] [0x44, 0x33, 0x22, 0x11])) = some ([0x11223344], .success, 1) := by decide

/-- Vectors VL6-VL8. -/
theorem test_load_signed :
    result (step (vm [0x63, 0x03] [] [0x00, 0x00, 0x00, 0x80])) = some ([0xFFFFFF80], .success, 2) ∧
    result (step (vm [0x60, 0x03] [] [0x00, 0x00, 0x00, 0x80])) = some ([0x80], .success, 2) ∧
    result (step (vm [0x64, 0x00] [] [0x00, 0x80])) = some ([0xFFFF8000], .success, 2) := by decide

/-- Vectors VL9, VL13. -/
theorem test_store_u8 :
    result (step (vm [0x25] [0x12345678, 0x2])) = some ([0x12345678], .success, 1) ∧
    dataAfter (step (vm [0x25] [0x12345678, 0x2])) 2 2 = some [0x78, 0x00] ∧
    result (step (vm [0x65, 0x05] [])) = some ([], .stackEmpty, 2) := by decide

/-- Vectors VL10, VL14. -/
theorem test_store_u16 :
    result (step (vm [0x66, 0x0F] [0xBEEF])) = some ([], .dataAddressOutOfBounds, 2) ∧
    dataAfter (step (vm [0x66, 0x0F] [0xBEEF])) 14 2 = some [0x00, 0x00] ∧
    result (step (vm [0x26] [0x7])) = some ([], .stackEmpty, 1) ∧
    dataAfter (step (vm [0x26] [0x7])) 7 2 = some [0x00, 0x00] := by decide

/-- Vectors VL11, VL12. -/
theorem test_store_u32 :
    result (step (vm [0x67, 0x0C] [0x11223344])) = some ([0x11223344], .success, 2) ∧
    dataAfter (step (vm [0x67, 0x0C] [0x11223344])) 12 4 = some [0x44, 0x33, 0x22, 0x11] ∧
    result (step (vm [0x2A] [0xAABBCCDD, 0x0])) = some ([], .success, 1) ∧
    dataAfter (step (vm [0x2A] [0xAABBCCDD, 0x0])) 0 5 = some [0xDD, 0xCC, 0xBB, 0xAA, 0x00] := by decide

/-- Vectors VB2, VB3. -/
theorem test_dcopy_overlap :
    result (step (vm [0x2B] [0x1, 0x0, 0x3] [0x0A, 0x0B, 0x0C, 0x0D])) = some ([], .success, 1) ∧
    dataAfter (step (vm [0x2B] [0x1, 0x0, 0x3] [0x0A, 0x0B, 0x0C, 0x0D])) 0 4 = some [0x0A, 0x0A, 0x0A, 0x0A] ∧
    result (step (vm [0x2B] [0x0, 0x1, 0x3] [0x0A, 0x0B, 0x0C, 0x0D])) = some ([], .success, 1) ∧
    dataAfter (step (vm [0x2B] [0x0, 0x1, 0x3] [0x0A, 0x0B, 0x0C, 0x0D])) 0 4 = some [0x0B, 0x0C, 0x0D, 0x0D] := by decide

/-- Vectors VB4, VB5, VB7 (with DATA_LEN 16). -/
theorem test_dcopy_bounds :
    result (step (vm [0x2B] [0x10, 0x10, 0x0])) = some ([], .success, 1) ∧
    result (step (vm [0x2B] [0x11, 0x0, 0x0])) = some ([], .dataAddressOutOfBounds, 1) ∧
    result (step (vm [0x2B] [0x1, 0x2])) = some ([], .stackEmpty, 1) := by decide

/-- Vectors VB9, VB10. -/
theorem test_pcopy :
    result (step (vm [0x2C, 0x00, 0x00] [0x9, 0x2, 0x4])) = some ([], .programAddressOutOfBounds, 1) ∧
    result (step (vm [0x2C, 0x00, 0x00] [0x0, 0x0, 0x3])) = some ([], .success, 1) ∧
    dataAfter (step (vm [0x2C, 0x00, 0x00] [0x0, 0x0, 0x3])) 0 4 = some [0x2C, 0x00, 0x00, 0x00] := by decide

/-- Vectors VJ1-VJ3. -/
theorem test_call :
    result (step (vmAt 16 [0x30] [0x40])) = some ([0x11], .success, 0x40) ∧
    result (step (vmAt 16 [0x70, 0x40] [])) = some ([0x12], .success, 0x40) ∧
    result (step (vmAt 16 [0xB0, 0x40, 0x00] eight)) = some (eight, .stackFull, 0x13) := by decide

/-- Vectors VJ4, VJ5. -/
theorem test_jump_abs :
    result (step (vm [0x31] [0x12])) = some ([], .success, 0x12) ∧
    result (step (vm [0xF1, 0x00, 0x10, 0x00, 0x00] [])) = some ([], .success, 0x1000) := by decide

/-- Vectors VJ6-VJ8, VJ11. -/
theorem test_jump_abs_if :
    result (step (vm [0x32] [0x30, 0x1])) = some ([], .success, 0x30) ∧
    result (step (vm [0x32] [0x30, 0x0])) = some ([], .success, 1) ∧
    result (step (vm [0x72, 0x30] [0x80000000])) = some ([], .success, 0x30) ∧
    result (step (vm [0x32] [0x1])) = some ([], .stackEmpty, 1) := by decide

/-- Vectors VJ9, VJ10. -/
theorem test_jump_abs_if_not :
    result (step (vm [0x73, 0x30] [0x0])) = some ([], .success, 0x30) ∧
    result (step (vm [0x73, 0x30] [0x2])) = some ([], .success, 2) := by decide

/-- Vectors VJ12-VJ14, VJ20. -/
theorem test_jump_rel :
    result (step (vmAt 16 [0x74, 0x05] [])) = some ([0x12], .success, 0x17) ∧
    result (step (vmAt 16 [0x74, 0xFE] [])) = some ([0x12], .success, 0x10) ∧
    result (step (vmAt 16 [0x34] [0xFFFFFFFC])) = some ([0x11], .success, 0x0D) ∧
    result (step (vmAt 16 [0x74, 0x05] eight)) = some (eight, .stackFull, 0x12) := by decide

/-- Vectors VJ15, VJ21. -/
theorem test_jump_rel_wraps :
    result (step (vm [0xF4, 0x00, 0x00, 0x00, 0x80] [])) = some ([0x5], .success, 0x80000005) ∧
    result (step (vm [0x74, 0xF0] [])) = some ([0x2], .success, 0xFFFFFFF2) := by decide

/-- Vectors VJ16, VJ17, VJ19. -/
theorem test_jump_rel_if :
    result (step (vmAt 16 [0x75, 0xF0] [0x1])) = some ([], .success, 0x02) ∧
    result (step (vmAt 16 [0x75, 0xF0] [0x0])) = some ([], .success, 0x12) ∧
    result (step (vmAt 16 [0x35] [0x8, 0x1])) = some ([], .success, 0x19) := by decide

/-- Vectors VJ18. -/
theorem test_jump_rel_if_not :
    result (step (vmAt 16 [0x76, 0x04] [0x0])) = some ([], .success, 0x16) ∧
    result (step (vmAt 16 [0x76, 0x04] [0x1])) = some ([], .success, 0x12) := by decide

/-- Vectors VY1, V4. -/
theorem test_halt :
    result (step (vm [0x00] [])) = some ([], .halted, 1) ∧
    result (step (vm [0x00, 0x41, 0x3F] [])) = some ([], .halted, 1) := by decide

/-- Vectors VY2-VY4. -/
theorem test_syscall_without_hook :
    result (step (vm [0x7F, 0x03] [])) = some ([], .badSyscall, 2) ∧
    result (step (vm [0x3F] [0x7])) = some ([], .badSyscall, 1) ∧
    result (step (vm [0x3F] [])) = some ([], .stackEmpty, 1) := by decide

/-- Vector VY5: a hook that pops 41 and pushes 42. Vector VY6: a hook that raises. -/
theorem test_syscall_with_hook :
    result (step { vm [0x7F, 0x01] [41] with hook := some 1, hookRuns := [[.pop, .push 42]] }) =
      some ([42], .success, 2) ∧
    result (step { vm [0x7F, 0x02] [41] with
      hook := some 1, hookRuns := [[.raise .callArgOutOfRange]] }) =
      some ([41], .callArgOutOfRange, 2) := by decide

/-- Vectors VY7, VY8: faults inside the hook. -/
theorem test_syscall_hook_faults :
    result (step { vm [0x7F, 0x01] [] with hook := some 1, hookRuns := [[.pop, .push 42]] }) =
      some ([], .stackEmpty, 2) ∧
    result (step { vm [0x7F, 0x00] [] with
      hook := some 1, hookRuns := [[.memWrite 16 .byte 0]] }) =
      some ([], .dataAddressOutOfBounds, 2) := by decide

/-- Vectors VX1, VX4, VX8 and V9: `exec(0)`, `exec` in `Faulted`, `error_ack`. -/
theorem test_exec_and_ack :
    (match step (calling (.exec 0) (vm [] [])) with
      | .next t => t.ret == .err .success && t.budget == 0 | _ => false) = true ∧
    (match step (calling (.exec 5) { vm [0x03] [] with err := .stackEmpty }) with
      | .next t => t.ret == .err .stackEmpty && t.ip == 0 && t.budget == 0 | _ => false) = true ∧
    (match step (calling .errorAck { vm [0x03] [] with err := .stackEmpty }) with
      | .next t => t.err == .success | _ => false) = true := by decide

/-- Vector VX7: `reset()` clears every cell. -/
theorem test_reset_call :
    (match step (calling .reset { vm [0x03] [1, 2] [9] with err := .halted, ip := 7 }) with
      | .next t => t.ip == 0 && t.sp == 8 && t.stack == List.replicate 8 0 && t.err == .success &&
          Buffer.get t.data 0 == 9
      | _ => false) = true := by decide

/-- Vector V6, encoder: the second frame of the round trip. -/
theorem test_encoder_frame :
    (encWrite (appendU8 2 (setDelimited true (setFinal true (withCodec State.reset))))).1.frames =
      [[0xC1, 0x02]] := by decide

/-- Vectors V7, VK5, VK6: `write` and `write_zero` with nothing pending. -/
theorem test_encoder_zero_length :
    (encWrite (withCodec State.reset)).2 = .zeroLength ∧
    (encWriteZero (withCodec State.reset)).1.frames = [[0x00]] ∧
    (encWriteZero (setDelimited true (withCodec State.reset))).1.frames = [[0x40]] ∧
    (encWriteZero (setFinal true (setDelimited true (withCodec State.reset)))).1.frames =
      [[0xC0]] := by decide

/-- Vector VK1, its 63rd append: the frame of 64 bytes goes out at once. -/
theorem test_encoder_flushes_at_63 :
    (appendU8 0x3E { State.reset with enc := { State.reset.enc with count := 62 } }).frames =
      [0x3F :: (List.replicate 62 0 ++ [0x3E])] ∧
    (appendU8 0x3E { State.reset with enc := { State.reset.enc with count := 61 } }).frames =
      [] := by decide

/-- Vectors V6, VD4 and VD5, decoder. -/
theorem test_decoder :
    (feed [[0xC1], [0x02]] (withCodec State.reset)).map (fun t => (t.events, t.dec.idx)) =
      some ([.delimiter, .data [0x02], .final], 0) ∧
    (feed [[0xC0]] (withCodec State.reset)).map (fun t => t.events) =
      some [.delimiter, .final] ∧
    (feed [[]] (withCodec State.reset)).map (fun t => (t.ret, t.dec.idx)) =
      some (.codec .noData, 0) := by decide

/-- Vector VD6: a read of nothing inside a frame. -/
theorem test_decoder_no_data_inside_frame :
    (feed [[0x02], [0xAA], [], [0xBB]] (withCodec State.reset)).map (fun t => t.events) =
      some [.data [0xAA, 0xBB]] := by decide

/-! ## Every obligation's hypotheses are met -/

theorem witness_ResetReinitialisesTheCore :
    Calling (calling .reset { vm [0x03] [1, 2] with err := .halted }) .reset [] := by decide

theorem witness_ErrorAckClearsOnlyErr :
    Calling (calling .errorAck { vm [0x03] [] with err := .halted }) .errorAck [] := by decide

theorem witness_ExecReturnsLatchedError :
    Calling (calling (.exec 5) { vm [0x03] [] with err := .halted }) (.exec 5) [] ∧
    ({ vm [0x03] [] with err := .halted } : State).Faulted := by decide

theorem witness_ExecRunsUnderItsBudget :
    Calling (calling (.exec 0) (vm [] [])) (.exec 0) [] ∧
    Calling (calling (.exec 1) (vm [] [])) (.exec 1) [] ∧
    (vm [] []).Ready ∧
    (vm [0x03] []).budget ≠ 0 ∧
    result (runInstruction (vm [0x03] [])) = some ([], .stackEmpty, 1) ∧
    result (runInstruction (vm [0x03] [5])) = some ([], .success, 1) ∧
    (vm [0x03] [5]).budget = 1 ∧
    ({ vm [0x03] [5] with budget := 2 } : State).budget ≠ 1 := by decide

theorem witness_ExecReturnsWithinCount :
    ({ vm [0x03] [5] with budget := 2 } : State).budget ≠ 0 ∧
    (vm [0x03] [5]).Ready ∧
    result (Sys2Proof.core.run 2 { vm [0x03] [5] with budget := 2 }) =
      some ([], .programAddressOutOfBounds, 1) := by decide

theorem witness_FaultedUntilAcknowledged :
    State.Faulted { calling (.exec 5) (vm [0x03] []) with err := .halted } ∧
    result (step { calling (.exec 5) (vm [0x03] []) with err := .halted }) = some ([], .halted, 0) ∧
    ∀ c rest, Calling { calling (.exec 5) (vm [0x03] []) with err := .halted } c rest →
      writesRegisters c = false := by
  refine ⟨by decide, by decide, ?_⟩
  rintro c rest ⟨-, h⟩
  cases h
  rfl

theorem witness_HostCallsKeepRegisters :
    (calling (.inspect .sp) (vm [0x03] [5])).budget = 0 ∧
    step (calling (.inspect .sp) (vm [0x03] [5])) =
      .next { vm [0x03] [5] with budget := 0, ret := .slots 7 } ∧
    (∀ rest, (calling (.inspect .sp) (vm [0x03] [5])).calls ≠ .reset :: rest ∧
      (calling (.inspect .sp) (vm [0x03] [5])).calls ≠ .errorAck :: rest) ∧
    ∀ a b rest, (calling (.inspect .sp) (vm [0x03] [5])).calls ≠ .writeData a b :: rest :=
  ⟨by decide, rfl, fun _ => ⟨nofun, nofun⟩, fun _ _ _ => nofun⟩

/-- The first and the last index and address of each kind, and the first beyond. -/
theorem witness_HostCallsKeepRegisters_bounds :
    Calling (calling (.writeData 15 0xAB) (vm [] [])) (.writeData 15 0xAB) [] ∧
    (calling (.writeData 15 0xAB) (vm [] [])).data.wf = true ∧
    15 < (vm [] []).data.len ∧ (vm [] []).data.len ≤ 16 ∧
    step (calling (.writeData 16 0xAB) (vm [] [])) = .refused .hostWritesOutsideData ∧
    Calling (calling (.inspect (.cell 7)) (vm [] [5])) (.inspect (.cell 7)) [] ∧
    (vm [] [5]).stack[7]? = some 5 ∧ (vm [] [5]).stack.length ≤ 8 ∧
    step (calling (.inspect (.cell 8)) (vm [] [5])) = .refused .hostReadsNoCell ∧
    Calling (calling (.inspect (.dataByte 15)) (vm [] [])) (.inspect (.dataByte 15)) [] ∧
    step (calling (.inspect (.dataByte 16)) (vm [] [])) = .refused .hostReadsOutsideData ∧
    Calling (calling (.inspect .ip) (vm [] [])) (.inspect .ip) [] ∧
    Calling (calling (.inspect .err) (vm [] [])) (.inspect .err) [] :=
  ⟨by decide, by decide, by decide, by decide, rfl, by decide, by decide, by decide, rfl, by decide, rfl,
    by decide, by decide⟩

theorem witness_StepRunsDecodedInstruction :
    (vm [0x48, 0x04, 0x00] [3]).budget ≠ 0 ∧
    (vm [0x48, 0x04, 0x00] [3]).Ready ∧
    fetch (vm [0x48, 0x04, 0x00] [3]) = some [0x48, 0x04] ∧
    decode [0x48, 0x04] = .instr (.addImm8 4) [] := by decide

/-- The encoding ends exactly at the end of the program. -/
theorem witness_EncodedInstructionRuns :
    (vm [0x48, 0x04] [3]).budget ≠ 0 ∧ (vm [0x48, 0x04] [3]).Ready ∧
    (vm [0x48, 0x04] [3]).ip.toNat + (encode (.addImm8 4)).length ≤
      (vm [0x48, 0x04] [3]).program.len ∧
    ∀ j b, (encode (.addImm8 4))[j]? = some b →
      Buffer.get (vm [0x48, 0x04] [3]).program ((vm [0x48, 0x04] [3]).ip.toNat + j) = b := by
  refine ⟨by decide, by decide, by decide, fun j b h => ?_⟩
  match j, h with
  | 0, h => cases h; rfl
  | 1, h => cases h; rfl
  | _ + 2, h => exact absurd h nofun

/-- No opcode byte; an opcode byte whose immediate is missing. -/
theorem witness_FetchFaultKeepsIp :
    (vm [0x41] []).budget ≠ 0 ∧
    (vm [0x41] []).Ready ∧
    (vm [] []).program.len < (vm [] []).ip.toNat + 1 ∧
    (vm [0x41] []).program.len < 0 + 1 + immLength (Buffer.get (vm [0x41] []).program 0) ∧
    ¬ (vm [0x41] []).program.len < 0 + 1 := by decide

theorem witness_BadOpcodeAfterCommit :
    reservedOpcode 0xC6 = true ∧
    (vm [0xC6, 1, 2, 3, 4] []).budget ≠ 0 ∧
    (vm [0xC6, 1, 2, 3, 4] []).Ready ∧
    Buffer.get (vm [0xC6, 1, 2, 3, 4] []).program 0 = 0xC6 ∧
    0 + 1 + immLength 0xC6 ≤ (vm [0xC6, 1, 2, 3, 4] []).program.len ∧
    (vm [0xC6, 1, 2, 3] []).program.len < 0 + 1 + immLength 0xC6 ∧
    reservedOpcode 0x40 = true ∧
    reservedOpcode 0x88 = false ∧
    immLength 0x88 ≤ ([1, 2] : List Byte).length := by decide

theorem witness_ExactlyLegalOpcodesDecode :
    immLength 0x88 ≤ ([1, 2] : List Byte).length ∧
    reservedOpcode 0x88 = false ∧
    immLength 0x06 ≤ ([] : List Byte).length ∧
    reservedOpcode 0x06 = true := by decide

theorem witness_DecodedBytesAreTheEncoding :
    decode [0x88, 0x01, 0x02, 0x03] = .instr (.addImm16 0x0201) [0x03] := by decide

theorem witness_PushStoresBelowTheTop :
    (vm [] eight).sp = 0 ∧
    (vm [] []).sp ≠ 0 ∧
    (vm [] []).sp ≤ (vm [] []).stack.length ∧
    (vm [] []).sp = 8 := by decide

theorem witness_PopReturnsTheTop :
    (vm [] [7]).live = [7] ∧
    (vm [] []).sp = (vm [] []).stack.length := by decide

theorem witness_PushImmediates :
    (vm [] eight).sp = 0 ∧
    (vm [] []).sp ≠ 0 ∧
    Buffer.get (vm [0x01] []).program 0 = 0x01 ∧
    0 + 1 + immLength 0x01 ≤ (vm [0x01] []).program.len := by decide

theorem witness_DropDupSwap :
    (vm [] [1, 2]).live = [2, 1] ∧
    (vm [] [1]).live = [1] ∧
    (vm [] []).live = [] ∧
    (vm [] [1]).sp ≠ 0 ∧
    (vm [] eight).live = [8, 7, 6, 5, 4, 3, 2, 1] ∧
    (vm [] eight).sp = 0 ∧
    Buffer.get (vm [0x43, 0] []).program 0 = 0x43 ∧
    0 + 1 + immLength 0x43 ≤ (vm [0x43, 0] []).program.len := by decide

theorem witness_ArithmeticWraps :
    (vm [] [1, 2]).live = [2, 1] ∧
    (vm [] [1]).live = [1] ∧
    (vm [] []).live = [] := by decide

theorem witness_BitwiseOperations :
    (vm [] [1, 2]).live = [2, 1] ∧
    (vm [] [1]).live = [1] ∧
    (vm [] []).live = [] := by decide

theorem witness_ShiftsByTheWholeAmount :
    (vm [] [1, 2]).live = [2, 1] ∧
    (vm [] [1]).live = [1] ∧
    (vm [] []).live = [] := by decide

theorem witness_UnsignedComparisons :
    (vm [] [1, 2]).live = [2, 1] ∧
    (vm [] [1]).live = [1] ∧
    (vm [] []).live = [] := by decide

theorem witness_SignedComparisons :
    (vm [] [1, 2]).live = [2, 1] ∧
    (vm [] [1]).live = [1] ∧
    (vm [] []).live = [] := by decide

theorem witness_UnaryOperations :
    (vm [] [1]).live = [1] ∧
    (vm [] []).live = [] ∧
    (vm [] []).sp ≠ 0 ∧
    (vm [] eight).sp = 0 := by decide

/-- The write ends at the last byte; a read of its upper half ends there too, and the other read ends where it begins. -/
theorem witness_MemoryReadAfterWrite :
    (vm [] []).data.wf = true ∧
    (match memWrite 12 .word 0x11223344 (vm [] []) with
      | .ok _ t => bytesAt t.data 12 4 == [0x44, 0x33, 0x22, 0x11] && t.data.wf
      | .raised _ => false) = true ∧
    (12 : Word).toNat + widthBytes .word ≤ (vm [] []).data.len ∧
    (vm [] []).data.len < (13 : Word).toNat + widthBytes .word ∧
    (12 : Word).toNat ≤ (14 : Word).toNat ∧
    (14 : Word).toNat + widthBytes .half ≤ (12 : Word).toNat + widthBytes .word ∧
    (8 : Word).toNat + widthBytes .word ≤ (12 : Word).toNat ∧
    memRead 8 .word (vm [] []) = .ok 0 (vm [] []) := by decide

theorem witness_LoadsReadDataMemory :
    (vm [] [12]).live = [12] ∧
    (12 : Word).toNat + 4 ≤ (vm [] [12]).data.len ∧
    (vm [] [13]).live = [13] ∧
    (vm [] [13]).data.len < (13 : Word).toNat + 4 ∧
    (vm [] []).live = [] ∧
    (vm [] []).sp ≠ 0 ∧
    (vm [] eight).sp = 0 ∧
    (15 : Word).toNat + 1 ≤ (vm [] []).data.len ∧
    (vm [] []).data.len < (16 : Word).toNat + 1 := by decide

theorem witness_StoresWriteDataMemory :
    (vm [] [7, 12]).data.wf = true ∧
    (vm [] [7, 12]).live = [12, 7] ∧
    (12 : Word).toNat + 4 ≤ (vm [] [7, 12]).data.len ∧
    (vm [] [7, 13]).live = [13, 7] ∧
    (vm [] [7, 13]).data.len < (13 : Word).toNat + 4 ∧
    (vm [] [12]).live = [12] ∧
    (vm [] []).live = [] ∧
    (15 : Word).toNat + 1 ≤ (vm [] []).data.len ∧
    (vm [] []).data.len < (16 : Word).toNat + 1 := by decide

theorem witness_DcopyCopiesForward :
    (vm [] [12, 0, 4]).data.wf = true ∧
    (vm [] [12, 0, 4]).live = [4, 0, 12] ∧
    (0 : Word).toNat + (4 : Word).toNat ≤ (vm [] []).data.len ∧
    (12 : Word).toNat + (4 : Word).toNat ≤ (vm [] []).data.len ∧
    (vm [] []).data.len < (13 : Word).toNat + (4 : Word).toNat ∧
    (vm [] [12, 0]).live = [0, 12] ∧
    (vm [] [12]).live = [12] ∧
    (vm [] []).live = [] := by decide

theorem witness_PcopyCopiesProgramBytes :
    (vm [0x2C, 0, 0] [0, 0, 3]).data.wf = true ∧
    (vm [0x2C, 0, 0] [0, 0, 3]).live = [3, 0, 0] ∧
    (0 : Word).toNat + (3 : Word).toNat ≤ (vm [0x2C, 0, 0] []).program.len ∧
    (vm [0x2C, 0, 0] []).program.len < (1 : Word).toNat + (3 : Word).toNat ∧
    (13 : Word).toNat + (3 : Word).toNat ≤ (vm [0x2C, 0, 0] []).data.len ∧
    (vm [0x2C, 0, 0] []).data.len < (14 : Word).toNat + (3 : Word).toNat ∧
    (vm [] [12, 0]).live = [0, 12] ∧
    (vm [] [12]).live = [12] ∧
    (vm [] []).live = [] := by decide

/-- Upward by one byte; and a copy onto itself, where the two clauses meet. -/
theorem witness_OverlappingDcopy :
    (vm [] [1, 0, 3]).data.wf = true ∧
    (vm [] [1, 0, 3]).live = [3, 0, 1] ∧
    (0 : Word).toNat + (3 : Word).toNat ≤ (vm [] []).data.len ∧
    (1 : Word).toNat + (3 : Word).toNat ≤ (vm [] []).data.len ∧
    (0 : Word).toNat < (1 : Word).toNat ∧
    (vm [] [0, 0, 3]).live = [3, 0, 0] ∧
    (vm [] [1, 0]).live = [0, 1] ∧
    (0 : Word).toNat ≤ (0 : Word).toNat := by decide

theorem witness_LinkingJumps :
    (vm [] [0x40]).live = [0x40] ∧
    (vm [] []).live = [] ∧
    (vm [] []).sp ≠ 0 ∧
    (vm [] eight).sp = 0 := by decide

theorem witness_AbsoluteJump :
    (vm [] [0x40]).live = [0x40] ∧
    (vm [] []).live = [] := by decide

theorem witness_ConditionalJumps :
    (vm [] [0x30, 1]).live = [1, 0x30] ∧
    (vm [] [0x30, 0]).live = [0, 0x30] ∧
    (vm [] [1]).live = [1] ∧
    (vm [] []).live = [] ∧
    (1 : Word).toNat ≠ 0 ∧
    (0 : Word).toNat = 0 := by decide

theorem witness_ReturnComesBack :
    (vm [] [5]).sp ≠ 0 ∧
    (vm [] [5]).sp ≤ (vm [] [5]).stack.length ∧
    result (exec (.callImm8 0x40) (vmAt 16 [] [5])) = some ([5, 16], .success, 0x40) ∧
    (vm [] [5, 0x40]).live = [0x40, 5] ∧
    (vm [] [5, 16]).live = [16, 5] := by decide

theorem witness_HaltStopsTheProgram :
    (vm [0x00] []).budget ≠ 0 ∧
    (vm [0x00] []).Ready ∧
    (vm [0x00] []).ip.toNat < (vm [0x00] []).program.len ∧
    Buffer.get (vm [0x00] []).program 0 = 0 ∧
    Buffer.get (vm [0x40, 0] []).program 0 = 0x40 ∧
    0 + 1 + immLength 0x40 ≤ (vm [0x40, 0] []).program.len := by decide

theorem witness_SyscallCallsTheHook :
    (vm [] []).live = [] ∧
    (vm [] [7]).live = [7] ∧
    (vm [] [7]).hook = none ∧
    ({ vm [] [7] with hook := some 1, hookRuns := [[.pop], []] } : State).hook = some 1 ∧
    ({ vm [] [7] with hook := some 1, hookRuns := [[.pop], []] } : State).hookRuns = [[.pop], []] ∧
    ({ vm [] [7] with hook := some 1 } : State).hookRuns = [] := by decide

theorem witness_SyscallWithDutifulHookCompletes :
    ({ vm [] [7] with hook := some 1, hookRuns := [[.pop], []] } : State).hook = some 1 ∧
    ({ vm [] [7] with hook := some 1, hookRuns := [[.pop], []] } : State).hookRuns = [.pop] :: [[]] ∧
    hookRunDutiful [.pop] = true ∧
    ({ vm [] [7] with hook := some 1 } : State).live = [7] ∧
    hookRunDutiful [] = true := by decide

theorem witness_HookPrimitivesAct :
    (vm [] [7]).live = [7] ∧
    (vm [] []).live = [] ∧
    (vm [] []).sp ≠ 0 ∧
    (vm [] eight).sp = 0 ∧
    (12 : Word).toNat + widthBytes .word ≤ (vm [] []).data.len ∧
    (vm [] []).data.len < (13 : Word).toNat + widthBytes .word ∧
    (vm [] []).data.wf = true ∧
    ErrCode.halted ≠ .success := by decide

theorem witness_HookBreachesAreRefused :
    hookRunDutiful [.pop] = true ∧ runHook [.pop] (vm [] [7]) = .next { vm [] [7] with sp := 8 } ∧
    ({ vm [] [7] with sp := 8 } : State).err = (vm [] [7]).err ∧ (vm [] [7]).Ready :=
  ⟨by decide, rfl, by decide, by decide⟩

theorem witness_CoreNeverRaisesCallArg :
    (vm [] [7]).err ≠ .callArgOutOfRange ∧
    isSyscall .drop = false ∧
    result (exec .drop (vm [] [7])) = some ([], .success, 0) ∧
    (vm [] [7]).hook = none ∧
    result (exec .syscall (vm [] [7])) = some ([], .badSyscall, 0) := by decide

theorem witness_InstructionsNeverStop :
    isSyscall .drop = false ∧
    isSyscall .syscall = true := by decide

theorem witness_InstructionsKeepBindingsAndCodec :
    result (exec .drop (vm [] [7])) = some ([], .success, 0) ∧
    result (exec .syscall { vm [] [7] with hook := some 1, hookRuns := [[.push 1]] }) =
      some ([1], .success, 0) := by decide

theorem witness_OnlyStoresWriteData :
    mayWriteData .drop = false ∧
    result (exec .drop (vm [] [7])) = some ([], .success, 0) ∧
    mayWriteData .storeU8 = true := by decide

theorem witness_OnlyTransfersWriteIp :
    isTransfer .drop = false ∧
    result (exec .drop (vm [] [7])) = some ([], .success, 0) ∧
    isTransfer .syscall = false ∧
    result (exec .syscall { vm [] [7] with hook := some 1, hookRuns := [[.push 1]] }) =
      some ([1], .success, 0) := by decide

theorem witness_StackGrowth :
    isSyscall .drop = false ∧
    growsStack .drop = false ∧
    result (exec .drop (vm [] [7])) = some ([], .success, 0) ∧
    growsStack .dup = true ∧
    result (exec .dup (vm [] [7])) = some ([7, 7], .success, 0) := by decide

theorem witness_FaultingInstructionsKeepData :
    isSyscall .storeU8 = false ∧
    (vm [] [7, 16]).Ready ∧
    result (exec .storeU8 (vm [] [7, 16])) = some ([], .dataAddressOutOfBounds, 0) := by decide

theorem witness_StepKeepsTheInvariant :
    (vm [0x25] [7, 2]).Inv ∧
    result (step (vm [0x25] [7, 2])) = some ([7], .success, 1) ∧
    (calling (.appendU8 1) (withCodec (vm [] []))).Inv ∧
    result (step (calling (.appendU8 1) (withCodec (vm [] [])))) = some ([], .success, 0) := by decide

theorem witness_InvariantHoldsInitially :
    Params.conventions.wellFormed = true := by decide

theorem witness_CodecInitialisation :
    Calling (calling (.encInit true) (vm [] [])) (.encInit true) [] ∧
    Calling (calling (.encInit false) (vm [] [])) (.encInit false) [] ∧
    Calling (calling (.decInit true true true true) (vm [] [])) (.decInit true true true true) [] ∧
    Calling (calling (.decInit true true true false) (vm [] [])) (.decInit true true true false) [] := by decide

/-- An encoder with `n` payload bytes pending. -/
def pending (n : Nat) (c : HostCall) : State :=
  let s := withCodec (calling c (vm [] []))
  { s with enc := { s.enc with count := n } }

theorem witness_AppendFlushesAtSixtyThree :
    Calling (pending 61 (.appendU8 7)) (.appendU8 7) [] ∧
    (pending 61 (.appendU8 7)).enc.bound = true ∧
    (pending 61 (.appendU8 7)).enc.Inv ∧
    (pending 61 (.appendU8 7)).enc.count < 62 ∧
    Calling (pending 62 (.appendU8 7)) (.appendU8 7) [] ∧
    (pending 62 (.appendU8 7)).enc.Inv ∧
    (pending 62 (.appendU8 7)).enc.count = 62 := by decide

theorem witness_AppendBufIsRepeatedAppend :
    (pending 62 .write).budget = 0 ∧
    (pending 62 .write).enc.bound = true := by decide

theorem witness_FlagsAndFlushes :
    (pending 0 .write).enc.bound = true ∧
    (pending 0 .write).enc.Inv ∧
    Calling (pending 0 .write) .write [] ∧
    (pending 0 .write).enc.count = 0 ∧
    (pending 1 .write).enc.count ≠ 0 ∧
    (pending 1 .write).enc.Inv ∧
    Calling (pending 0 (.setFinal true)) (.setFinal true) [] ∧
    Calling (pending 0 (.setDelimited true)) (.setDelimited true) [] ∧
    Calling (pending 0 .writeZero) .writeZero [] := by decide

theorem witness_EmittedFramesAreWellFormed :
    (State.Inv { pending 1 .write with frames := [[0x01, 0x05]] }) ∧
    (∀ f ∈ ({ pending 1 .write with frames := [[0x01, 0x05]] } : State).frames, IsFrame f) ∧
    result (step { pending 1 .write with frames := [[0x01, 0x05]] }) = some ([], .success, 0) :=
  ⟨by decide, fun _ hf => ⟨0x01, [0x05], List.mem_singleton.1 hf, rfl⟩, by decide⟩

theorem witness_UninitialisedUnitsAreRefused :
    Calling (calling .write (vm [] [])) .write [] ∧
    (calling .write (vm [] [])).enc.bound = false ∧
    isEncoderCommand .write = true ∧
    Calling (calling (.readFrameStep [1]) (vm [] [])) (.readFrameStep [1]) [] ∧
    (calling (.readFrameStep [1]) (vm [] [])).dec.bound = false := by decide

/-- A decoder that has read the header 0x02 and asks for two bytes. -/
def insideFrame (c : HostCall) : State :=
  let s := withCodec (calling c (vm [] []))
  { s with dec := { s.dec with buf := s.dec.buf.set 0 0x02, idx := 1 } }

theorem witness_ReadsOfNothingAndTooMuch :
    Calling (withCodec (calling (.readFrameStep []) (vm [] []))) (.readFrameStep []) [] ∧
    (withCodec (calling (.readFrameStep []) (vm [] []))).dec.bound = true ∧
    (withCodec (calling (.readFrameStep [1, 2]) (vm [] []))).dec.idx = 0 ∧
    1 < ([1, 2] : List Byte).length ∧
    Calling (insideFrame (.readFrameStep [1, 2, 3])) (.readFrameStep [1, 2, 3]) [] ∧
    (insideFrame (.readFrameStep [1, 2, 3])).dec.idx ≠ 0 ∧
    (insideFrame (.readFrameStep [1, 2, 3])).dec.buf = 0x02 :: List.replicate 63 0 ∧
    (0x02 : Byte).toNat % 64 + 1 < 1 + ([1, 2, 3] : List Byte).length := by decide

theorem witness_DecoderReportsEachFrame :
    (vm [] []).dec.buf.length = 64 ∧
    (vm [] []).dec.idx = 0 ∧
    ([0xAA, 0xBB] : List Byte).length ≤ 63 ∧
    ([[0x02], [0xAA], [], [0xBB]] : List (List Byte)).flatten =
      headerByte false false 2 :: [0xAA, 0xBB] ∧
    (feed [[0x02], [0xAA], [], [0xBB]] (vm [] [])).isSome = true ∧
    (List.replicate 63 (0x11 : Byte)).length ≤ 63 := by decide

theorem witness_ChunkingInvariance :
    (vm [] []).dec.Inv ∧
    ([[0x02], [0xAA], [0xBB], [0x40]] : List (List Byte)).flatten =
      ([[0x02], [0xAA, 0xBB], [], [0x40]] : List (List Byte)).flatten ∧
    (feed [[0x02], [0xAA], [0xBB], [0x40]] (vm [] [])).isSome = true ∧
    (feed [[0x02], [0xAA, 0xBB], [], [0x40]] (vm [] [])).isSome = true := by decide

theorem witness_CodecRoundTrip :
    (vm [] []).Inv ∧
    (vm [] []).enc.count = 0 ∧
    (vm [] []).dec.idx = 0 := by decide

end Sys2Proof.Tests
end

/-! # Scope of an instance (00_scope.md): what every instruction keeps, and the initial invariant -/

section

namespace Sys2Proof

/-! ## The construction parameters -/

/-- The ranges of 00_scope.md R11, one by one. -/
theorem Params.wellFormed_iff (p : Params) :
    p.wellFormed = true ↔
      1 ≤ p.stackCap ∧ p.stackCap ≤ maxLength ∧ p.program.wf = true ∧ p.data.wf = true := by
  simp [Params.wellFormed, and_assoc]

theorem Params.conventions_wellFormed : Params.conventions.wellFormed = true := by decide

end Sys2Proof

namespace Sys2Proof.Machine

open Sys2Proof

/-! ## What every instruction keeps

`halt` and the stack instructions first; the other templates have their lemmas in Laws/Templates.lean. -/

theorem pushWord_kept (v : Word) (s : State) : ∃ t, pushWord v s = .next t ∧ CoreKept s t :=
  (push_kept s v s (.refl s)).outcome

theorem execDrop_kept (s : State) : ∃ t, execDrop s = .next t ∧ CoreKept s t := by
  refine ((pop_kept s s (.refl s)).andThen fun _ _ h1 => ?_).outcome
  exact h1

theorem execDup_kept (s : State) : ∃ t, execDup s = .next t ∧ CoreKept s t :=
  ((pop_kept s s (.refl s)).andThen fun x s1 h1 =>
    (push_kept s x s1 h1).andThen fun _ s2 h2 => push_kept s x s2 h2).outcome

theorem execSwap_kept (s : State) : ∃ t, execSwap s = .next t ∧ CoreKept s t :=
  ((pop_kept s s (.refl s)).andThen fun y s1 h1 => (pop_kept s s1 h1).andThen fun x s2 h2 =>
    (push_kept s y s2 h2).andThen fun _ s3 h3 => push_kept s x s3 h3).outcome

theorem execHalt_kept (s : State) : ∃ t, execHalt s = .next t ∧ CoreKept s t :=
  ⟨_, rfl, (CoreKept.refl s).raise .halted⟩

/-- Every shape but `syscall`, whose hook can stop the model, ends in a next state, and that state
keeps the core's frame and invariant. -/
theorem Shape.run_kept_or_sysCall (sh : Shape) (s : State) :
    (∃ t, sh.run s = .next t ∧ CoreKept s t) ∨ ∃ o, sh = .sysCall o := by
  cases sh with
  | halt => exact .inl (execHalt_kept s)
  | push v => exact .inl (pushWord_kept v s)
  | drop => exact .inl (execDrop_kept s)
  | dup => exact .inl (execDup_kept s)
  | swap => exact .inl (execSwap_kept s)
  | binary o f => exact .inl (binary_kept o s f)
  | unary o g => exact .inl (unary_kept o s g)
  | load o w ext => exact .inl (load_kept o s w ext)
  | store o w => exact .inl (store_kept o s w)
  | storeDiscard o w => exact .inl (storeDiscard_kept o s w)
  | dataCopy o => exact .inl (dataCopy_kept o s)
  | programCopy o => exact .inl (programCopy_kept o s)
  | callTo o => exact .inl (callTo_kept o s)
  | jumpTo o => exact .inl (jumpTo_kept o s)
  | jumpToWhen o test => exact .inl (jumpToWhen_kept o s test)
  | jumpBy o => exact .inl (jumpBy_kept o s)
  | jumpByWhen o test => exact .inl (jumpByWhen_kept o s test)
  | sysCall o => exact .inr ⟨o, rfl⟩

/-- Whatever instruction runs, with any hook: where it ends in a next state, that state keeps the
core's frame and invariant. -/
theorem exec_kept {i : Instr} {s t : State} (h : exec i s = .next t) : CoreKept s t := by
  rw [exec_eq_run] at h
  obtain ⟨u, hu, hk⟩ | ⟨o, ho⟩ := (shapeOf i).run_kept_or_sysCall s
  · obtain rfl : u = t := Host.Outcome.next.inj (hu.symm.trans h)
    exact hk
  · rw [ho] at h
    exact sysCall_kept h

/-! The parts of the frame, as the statements name them. -/

theorem CoreFrame.sameBindings {s t : State} (h : CoreFrame s t) : SameBindings s t :=
  ⟨h.program, h.hook, h.dataLen, h.stackLen⟩

theorem CoreFrame.sameCodec {s t : State} (h : CoreFrame s t) : SameCodec s t :=
  ⟨h.enc, h.dec, h.frames, h.events⟩

theorem CoreFrame.sameHost {s t : State} (h : CoreFrame s t) : SameHost s t :=
  ⟨h.budget, h.calls, h.ret⟩

/-! ## The invariant after construction -/

/-- Construction leaves the stack empty (10_state.md R125), which is within any capacity; the range of
the capacity and both memories are those of the parameters. -/
theorem State.construct_vmInv {p : Params} (h : p.wellFormed = true) : (State.construct p).VmInv := by
  obtain ⟨hpos, hmax, hprogram, hdata⟩ := p.wellFormed_iff.1 h
  have hcap : (State.construct p).stack.length = p.stackCap := List.length_replicate
  exact ⟨hcap.ge, hcap ▸ hpos, hcap ▸ hmax, hprogram, hdata⟩

theorem Encoder.fresh_inv : Encoder.fresh.Inv :=
  ⟨List.length_replicate, Nat.zero_le _⟩

theorem Decoder.fresh_inv : Decoder.fresh.Inv :=
  ⟨List.length_replicate, .inl rfl⟩

/-- No `exec` call is in progress after construction. -/
theorem State.construct_execInv (p : Params) : (State.construct p).ExecInv :=
  ⟨Nat.zero_le _, fun h => absurd rfl h⟩

theorem State.construct_inv {p : Params} (h : p.wellFormed = true) : (State.construct p).Inv :=
  ⟨construct_vmInv h, Encoder.fresh_inv, Decoder.fresh_inv, construct_execInv p⟩

/-! ## The obligations -/

/-- Settles O44: the shapes but `syscall` keep the frame template by template, `syscall` by induction on
its hook's run. -/
theorem instructionsKeepBindingsAndCodec : Obligations.InstructionsKeepBindingsAndCodec := by
  unfold Obligations.InstructionsKeepBindingsAndCodec
  intro i s t h
  obtain ⟨hframe, -⟩ := exec_kept h
  exact ⟨hframe.sameBindings, hframe.sameCodec, hframe.sameHost⟩

/-- Settles O50: `State.reset` is construction with the conventions of 95_test_vectors.md, which are
well formed. -/
theorem invariantHoldsInitially : Obligations.InvariantHoldsInitially := by
  unfold Obligations.InvariantHoldsInitially
  exact ⟨State.construct_inv Params.conventions_wellFormed, fun _ h => State.construct_inv h⟩

end Sys2Proof.Machine

end

/-! # State (10_state.md): its initial values, who writes it, and the invariant every step keeps -/

section

namespace Sys2Proof.Machine

open Sys2Proof Sys2Proof.Claims

variable {s t u : State}

/-! ## The VM core in two states -/

/-- The VM core (10_state.md R100-R106) is the same in two states. -/
structure VmFrame (s t : State) : Prop where
  ip : t.ip = s.ip
  sp : t.sp = s.sp
  stack : t.stack = s.stack
  err : t.err = s.err
  program : t.program = s.program
  data : t.data = s.data
  hook : t.hook = s.hook

theorem VmFrame.refl (s : State) : VmFrame s s := ⟨rfl, rfl, rfl, rfl, rfl, rfl, rfl⟩

theorem VmFrame.sameBindings (h : VmFrame s t) : SameBindings s t :=
  ⟨h.program, h.hook, by rw [h.data], by rw [h.stack]⟩

theorem VmFrame.vmInv (h : VmFrame s t) (hs : s.VmInv) : t.VmInv := by
  simpa only [State.VmInv, h.sp, h.stack, h.program, h.data] using hs

theorem VmFrame.setRet (h : VmFrame s t) (r : HostReturn) : VmFrame s (t.setRet r) :=
  ⟨h.ip, h.sp, h.stack, h.err, h.program, h.data, h.hook⟩

theorem EncFrame.vmFrame (h : EncFrame s t) : VmFrame s t where
  ip := (congrArg State.ip h.rest :)
  sp := (congrArg State.sp h.rest :)
  stack := (congrArg State.stack h.rest :)
  err := (congrArg State.err h.rest :)
  program := (congrArg State.program h.rest :)
  data := (congrArg State.data h.rest :)
  hook := (congrArg State.hook h.rest :)

/-- Opening an `exec` call touches only its budget and what it returns. -/
theorem openExec_vmFrame (count : Word) (s : State) : VmFrame s (openExec count s) := by
  obtain ⟨-, h⟩ | ⟨-, -, h⟩ | ⟨-, -, h⟩ := openExec_cases count s <;> rw [h] <;>
    exact ⟨rfl, rfl, rfl, rfl, rfl, rfl, rfl⟩

/-- Closing an instruction touches only the budget and what `exec` returns. -/
theorem closeInstruction_vmFrame (s : State) : VmFrame s (closeInstruction s) := by
  obtain ⟨-, h⟩ | ⟨-, -, h⟩ | ⟨-, -, h⟩ := closeInstruction_cases s <;> rw [h] <;>
    exact ⟨rfl, rfl, rfl, rfl, rfl, rfl, rfl⟩

/-! ## The encoder's invariant -/

/-- A flush empties the encoder, however full it was. -/
theorem encFlush_inv (h : s.enc.payload.length = 63) : (encFlush s).enc.Inv := ⟨h, Nat.zero_le _⟩

theorem appendU8_inv (b : Byte) (h : s.enc.Inv) : (appendU8 b s).enc.Inv := by
  obtain ⟨hlen, hcount⟩ := h
  have hset : (s.enc.payload.set s.enc.count b).length = 63 := by rw [List.length_set, hlen]
  obtain ⟨-, he⟩ | ⟨hroom, he⟩ := appendU8_cases b s <;> rw [he]
  · exact encFlush_inv hset
  · exact ⟨hset, by simp only [frameMaxPayload] at hroom; simp only [State.setEnc_enc]; omega⟩

theorem appendBuf_inv (bytes : List Byte) (h : s.enc.Inv) : (appendBuf bytes s).enc.Inv := by
  induction bytes generalizing s with
  | nil => exact h
  | cons b rest ih => exact ih (appendU8_inv b h)

/-! ## The decoder's invariant -/

/-- A read of no more than was asked for ends at or before the end of the frame: the header is either
the one byte read, or buffered already and left alone. -/
theorem decStore_idx_le {d : Decoder} {got : List Byte} (h : d.Inv) (hg : got.length ≤ decWant d) :
    (decStore d got).idx ≤ decLength (decStore d got) + 1 := by
  obtain ⟨hlen, hidx⟩ := h
  rw [decStore_idx]
  by_cases h0 : d.idx = 0
  · rw [decWant, if_pos h0] at hg
    omega
  · have hb : d.buf ≠ [] := List.ne_nil_of_length_eq_add_one hlen
    rw [decWant, if_neg h0] at hg
    rw [decLength_decStore d got h0 hb]
    omega

theorem decStore_buf_length_of_inv {d : Decoder} {got : List Byte} (h : d.Inv)
    (hg : got.length ≤ decWant d) : (decStore d got).buf.length = 64 := by
  have hle := decStore_idx_le h hg
  have hmax : decLength (decStore d got) ≤ 63 := headerLength_le _
  rw [decStore_idx] at hle
  exact decStore_buf_length d got h.1 (by omega)

/-! ## What a host call can do -/

/-- Only the codec and what the host call returned differ in two states, the codec's invariants kept. -/
structure CodecStep (s t : State) : Prop where
  vm : VmFrame s t
  budget : t.budget = s.budget
  enc : s.enc.Inv → t.enc.Inv
  dec : s.dec.Inv → t.dec.Inv

theorem CodecStep.refl (s : State) : CodecStep s s := ⟨.refl s, rfl, id, id⟩

theorem CodecStep.setRet (h : CodecStep s t) (r : HostReturn) : CodecStep s (t.setRet r) :=
  ⟨h.vm.setRet r, h.budget, h.enc, h.dec⟩

theorem CodecStep.setDec (s : State) {d : Decoder} (h : s.dec.Inv → d.Inv) :
    CodecStep s (s.setDec d) :=
  ⟨⟨rfl, rfl, rfl, rfl, rfl, rfl, rfl⟩, rfl, id, h⟩

theorem CodecStep.addEvents (h : CodecStep s t) (es : List DecEvent) :
    CodecStep s (t.addEvents es) :=
  ⟨⟨h.vm.ip, h.vm.sp, h.vm.stack, h.vm.err, h.vm.program, h.vm.data, h.vm.hook⟩, h.budget, h.enc,
    h.dec⟩

theorem CodecStep.of_encFrame (h : EncFrame s t) (he : s.enc.Inv → t.enc.Inv) : CodecStep s t :=
  by
  have hdec : t.dec = s.dec := (congrArg State.dec h.rest :)
  exact ⟨h.vmFrame, (congrArg State.budget h.rest :), he, fun hd => hdec ▸ hd⟩

theorem encInit_codecStep (sink : Bool) (s : State) : CodecStep s (encInit sink s).1 := by
  cases sink with
  | true => exact .of_encFrame ⟨rfl⟩ fun h => ⟨h.1, Nat.zero_le _⟩
  | false => exact .of_encFrame ⟨rfl⟩ id

theorem appendU8_codecStep (b : Byte) (s : State) : CodecStep s (appendU8 b s) :=
  .of_encFrame (appendU8_frame b s) (appendU8_inv b)

theorem appendBuf_codecStep (bytes : List Byte) (s : State) : CodecStep s (appendBuf bytes s) :=
  .of_encFrame (appendBuf_frame bytes s) (appendBuf_inv bytes)

theorem encFlush_codecStep (s : State) : CodecStep s (encFlush s) :=
  .of_encFrame (encFlush_frame s) fun h => encFlush_inv h.1

theorem encWrite_codecStep (s : State) : CodecStep s (encWrite s).1 := by
  obtain ⟨-, h⟩ | ⟨-, h⟩ := encWrite_cases s <;> rw [h]
  · exact .refl s
  · exact encFlush_codecStep s

theorem decInit_codecStep (read onDelimiter onData onFinal : Bool) (s : State) :
    CodecStep s (decInit read onDelimiter onData onFinal s).1 := by
  unfold decInit
  split
  · exact .setDec s fun h => ⟨h.1, .inl rfl⟩
  · exact .setDec s id

theorem readFrameStep_codecStep {got : List Byte} (h : readFrameStep got s = .next t) :
    CodecStep s t := by
  obtain ⟨-, hr⟩ | ⟨-, hr⟩ | ⟨-, hg, -, hr⟩ | ⟨-, hg, hi, hr⟩ := readFrameStep_cases got s <;>
    rw [hr] at h <;> cases h
  · exact (CodecStep.refl s).setRet _
  · have hinv (hd : s.dec.Inv) : Decoder.Inv { decStore s.dec got with idx := 0 } :=
      ⟨decStore_buf_length_of_inv hd hg, .inl rfl⟩
    exact ((CodecStep.setDec s hinv).addEvents _).setRet _
  · have hinv (hd : s.dec.Inv) : (decStore s.dec got).Inv :=
      ⟨decStore_buf_length_of_inv hd hg, .inr (by have := decStore_idx_le hd hg; omega)⟩
    exact (CodecStep.setDec s hinv).setRet _

/-- A command to the encoder that is not refused has run. -/
theorem withEncoder_codecStep {f : State → State × CodecResult} (hf : CodecStep s (f s).1)
    (h : withEncoder f s = .next t) : CodecStep s t := by
  cases hb : s.enc.bound with
  | true =>
    rw [withEncoder_of_bound f hb] at h
    cases h
    exact hf.setRet _
  | false =>
    rw [withEncoder_of_unbound f hb] at h
    cases h

/-- What a host call that is not refused does (60_exceptions.md R925): the four that may change the VM
or its `exec` call, and all others. -/
inductive HostEffect (s : State) : HostCall → State → Prop where
  | opensExec (count : Word) : HostEffect s (.exec count) (openExec count s)
  | acknowledges : HostEffect s .errorAck ((errorAck s).setRet .nothing)
  | resets : HostEffect s .reset ((resetVm s).setRet .nothing)
  | writesData (a : Nat) (b : Byte) :
    HostEffect s (.writeData a b) ((s.setData (Buffer.set s.data a b)).setRet .nothing)
  | leavesVm {c : HostCall} {t : State} (h : CodecStep s t) : HostEffect s c t

theorem hostCall_effect {c : HostCall} (h : hostCall c s = .next t) : HostEffect s c t := by
  unfold hostCall at h
  cases c with
  | exec count => cases h; exact .opensExec count
  | errorAck => cases h; exact .acknowledges
  | reset => cases h; exact .resets
  | inspect what =>
    obtain ⟨r, hr⟩ | ⟨_, _, _, hr⟩ | ⟨_, _, _, hr⟩ := hostInspect_cases what s <;>
      cases hr.symm.trans h
    exact .leavesVm ((CodecStep.refl s).setRet r)
  | writeData a b =>
    obtain ha | ha := Nat.lt_or_ge a s.data.len
    · cases (hostWriteData_of_inside b ha).symm.trans h
      exact .writesData a b
    · cases (hostWriteData_of_outside b ha).symm.trans h
  | encInit sink => cases h; exact .leavesVm ((encInit_codecStep sink s).setRet _)
  | appendU8 b => exact .leavesVm (withEncoder_codecStep (appendU8_codecStep b s) h)
  | appendBuf bytes => exact .leavesVm (withEncoder_codecStep (appendBuf_codecStep bytes s) h)
  | setFinal f => exact .leavesVm (withEncoder_codecStep (.of_encFrame ⟨rfl⟩ id) h)
  | setDelimited d => exact .leavesVm (withEncoder_codecStep (.of_encFrame ⟨rfl⟩ id) h)
  | write => exact .leavesVm (withEncoder_codecStep (encWrite_codecStep s) h)
  | writeZero => exact .leavesVm (withEncoder_codecStep (encFlush_codecStep s) h)
  | decInit r d p f => cases h; exact .leavesVm ((decInit_codecStep r d p f s).setRet _)
  | readFrameStep got =>
    dsimp only at h
    split at h
    · exact .leavesVm (readFrameStep_codecStep h)
    · cases h
  | breach b => cases h

/-- While the host has control, a step is its next call. -/
theorem step_of_call {c : HostCall} {rest : List HostCall} (h : Calling s c rest) :
    step s = hostCall c (s.setCalls rest) := by
  obtain ⟨hbudget, hcalls⟩ := h
  rw [step_of_control hbudget, hostTurn_of_call hcalls]

/-- A step of the host, taken apart: it makes no call, or one that takes effect. -/
theorem step_control_next (hb : s.budget = 0) (h : step s = .next t) :
    t = s ∨ ∃ c rest, s.calls = c :: rest ∧ HostEffect (s.setCalls rest) c t := by
  cases hc : s.calls with
  | nil =>
    rw [step_of_control hb, hostTurn_of_none hc] at h
    exact .inl (Host.Outcome.next.inj h).symm
  | cons c rest => exact .inr ⟨c, rest, rfl, hostCall_effect (step_of_call ⟨hb, hc⟩ ▸ h)⟩

namespace HostEffect

variable {c : HostCall}

theorem sameBindings (h : HostEffect s c t) : SameBindings s t := by
  cases h with
  | opensExec count => exact (openExec_vmFrame count s).sameBindings
  | acknowledges => exact ⟨rfl, rfl, rfl, rfl⟩
  | resets => exact ⟨rfl, rfl, rfl, List.length_replicate⟩
  | writesData a b => exact ⟨rfl, rfl, Buffer.set_len _ a b, rfl⟩
  | leavesVm h => exact h.vm.sameBindings

/-- Only `reset` writes `ip`, `sp` or a stack cell (10_state.md R107). -/
theorem registers (h : HostEffect s c t) (hc : c ≠ .reset) :
    t.ip = s.ip ∧ t.sp = s.sp ∧ t.stack = s.stack := by
  cases h with
  | opensExec count =>
    have hvm := openExec_vmFrame count s
    exact ⟨hvm.ip, hvm.sp, hvm.stack⟩
  | acknowledges => exact ⟨rfl, rfl, rfl⟩
  | resets => exact absurd rfl hc
  | writesData a b => exact ⟨rfl, rfl, rfl⟩
  | leavesVm h => exact ⟨h.vm.ip, h.vm.sp, h.vm.stack⟩

/-- Only `error_ack` and `reset` write `err`. -/
theorem err (h : HostEffect s c t) (hc : writesRegisters c = false) : t.err = s.err := by
  cases h with
  | opensExec count => exact (openExec_vmFrame count s).err
  | acknowledges => exact absurd hc (by decide)
  | resets => exact absurd hc (by decide)
  | writesData a b => rfl
  | leavesVm h => exact h.vm.err

/-- Only a data write changes data bytes (20_memory.md R222). -/
theorem data (h : HostEffect s c t) (hc : ∀ a b, c ≠ .writeData a b) : t.data = s.data := by
  cases h with
  | opensExec count => exact (openExec_vmFrame count s).data
  | acknowledges => rfl
  | resets => rfl
  | writesData a b => exact absurd rfl (hc a b)
  | leavesVm h => exact h.vm.data

end HostEffect

/-! ## What the host reads and writes -/

/-- A write of a byte that exists changes that byte alone. -/
theorem Buffer.get_set {b : Buffer} {a : Nat} (v : Byte) (hb : b.wf = true) (ha : a < b.len)
    (c : Nat) : Buffer.get (Buffer.set b a v) c = if c = a then v else Buffer.get b c := by
  split
  · next h => rw [h, Buffer.get_set_self v hb ha]
  · next h => exact Buffer.get_set_ne b v h

theorem hostInspect_of_cell {i : Nat} {v : Word} (h : s.stack[i]? = some v) :
    hostInspect (.cell i) s = .next (s.setRet (.word v)) := by
  simp only [hostInspect, h]

theorem hostInspect_of_no_cell {i : Nat} (h : s.stack.length ≤ i) :
    hostInspect (.cell i) s = .refused .hostReadsNoCell := by
  simp only [hostInspect, List.getElem?_eq_none h]

theorem hostInspect_of_dataByte {a : Nat} (h : a < s.data.len) :
    hostInspect (.dataByte a) s = .next (s.setRet (.byte (Buffer.get s.data a))) := if_pos h

theorem hostInspect_of_no_dataByte {a : Nat} (h : s.data.len ≤ a) :
    hostInspect (.dataByte a) s = .refused .hostReadsOutsideData := if_neg (Nat.not_lt.2 h)

/-- While the host has control, the bindings stay, and each other part of the VM is written only by the
calls that name it (60_exceptions.md R925). -/
theorem step_control_writes (hb : s.budget = 0) (h : step s = .next t) :
    SameBindings s t ∧
    ((∀ rest, s.calls ≠ .reset :: rest) → t.ip = s.ip ∧ t.sp = s.sp ∧ t.stack = s.stack) ∧
    ((∀ rest, s.calls ≠ .reset :: rest ∧ s.calls ≠ .errorAck :: rest) → t.err = s.err) ∧
    ((∀ a b rest, s.calls ≠ .writeData a b :: rest) → t.data = s.data) := by
  obtain rfl | ⟨c, rest, hcalls, he⟩ := step_control_next hb h
  · exact ⟨(VmFrame.refl _).sameBindings, fun _ => ⟨rfl, rfl, rfl⟩, fun _ => rfl, fun _ => rfl⟩
  · rw [hcalls]
    refine ⟨he.sameBindings, fun hr => he.registers ?_, fun hr => he.err ?_, fun hw => he.data ?_⟩
    · rintro rfl; exact hr rest rfl
    · obtain ⟨hreset, hack⟩ := hr rest
      cases c with
      | errorAck => exact absurd rfl hack
      | reset => exact absurd rfl hreset
      | _ => rfl
    · rintro a b rfl; exact hw a b rest rfl

/-- A data write of the host stores its one byte, or names none and is refused (20_memory.md R222). -/
theorem step_writeData {a : Nat} {b : Byte} {rest : List HostCall}
    (hc : Calling s (.writeData a b) rest) (hwf : s.data.wf = true) :
    (a < s.data.len → ∃ d : Buffer, d.len = s.data.len ∧ d.wf = true ∧
      (∀ c, Buffer.get d c = if c = a then b else Buffer.get s.data c) ∧
      step s = .next { s with calls := rest, data := d, ret := .nothing }) ∧
    (s.data.len ≤ a → step s = .refused .hostWritesOutsideData) := by
  have hstep : step s = hostWriteData a b (s.setCalls rest) := step_of_call hc
  rw [hstep]
  exact ⟨fun ha => ⟨Buffer.set s.data a b, Buffer.set_len _ a b, Buffer.wf_set a b hwf,
    Buffer.get_set b hwf ha, hostWriteData_of_inside b ha⟩,
    fun ha => hostWriteData_of_outside b ha⟩

/-! ## The invariant -/

theorem CoreKept.trans (h : CoreKept s t) (k : CoreKept t u) : CoreKept s u :=
  ⟨h.1.trans k.1, k.2 ∘ h.2⟩

/-- One instruction cycle, whichever way it ends, keeps the core's frame and invariant. -/
theorem runInstruction_kept (h : runInstruction s = .next t) : CoreKept s t := by
  have hcommit (bytes : List Byte) : CoreKept s (commit bytes s) := (CoreKept.refl s).setIp _
  obtain hr | ⟨bytes, -, hr⟩ | ⟨bytes, i, -, -, -, hr⟩ := runInstruction_cases s <;> rw [hr] at h
  · cases h; exact (CoreKept.refl s).raise _
  · cases h; exact (hcommit bytes).raise _
  · exact (hcommit bytes).trans (exec_kept h)

/-- The invariant as an instruction leaves it, before the loop of `exec` looks at `err`. -/
theorem closeInstruction_inv (hvm : s.VmInv) (henc : s.enc.Inv) (hdec : s.dec.Inv)
    (hbudget : s.budget ≤ maxLength) : (closeInstruction s).Inv := by
  have hvm' := (closeInstruction_vmFrame s).vmInv hvm
  obtain ⟨-, h⟩ | ⟨-, -, h⟩ | ⟨hr, -, h⟩ := closeInstruction_cases s <;> rw [h] at hvm' ⊢
  · exact ⟨hvm', henc, hdec, Nat.zero_le _, absurd rfl⟩
  · exact ⟨hvm', henc, hdec, Nat.zero_le _, absurd rfl⟩
  · exact ⟨hvm', henc, hdec, (Nat.sub_le _ _).trans hbudget, fun _ => hr⟩

/-- An `exec` call opens with a 32-bit budget, and only while no fault is latched. -/
theorem openExec_inv (count : Word) (h : s.Inv) : (openExec count s).Inv := by
  obtain ⟨hvm, henc, hdec, hexec⟩ := h
  have hvm' := (openExec_vmFrame count s).vmInv hvm
  obtain ⟨-, ho⟩ | ⟨-, -, ho⟩ | ⟨hr, -, ho⟩ := openExec_cases count s <;> rw [ho] at hvm' ⊢
  · exact ⟨hvm', henc, hdec, hexec⟩
  · exact ⟨hvm', henc, hdec, hexec⟩
  · exact ⟨hvm', henc, hdec, Nat.le_pred_of_lt count.isLt, fun _ => hr⟩

theorem HostEffect.inv {c : HostCall} (h : HostEffect s c t) (hs : s.Inv) : t.Inv := by
  have ⟨hvm, henc, hdec, hbudget, hready⟩ := hs
  have ⟨hsp, hpos, hmax, hprogram, hdata⟩ := hvm
  cases h with
  | opensExec count => exact openExec_inv count hs
  | acknowledges => exact ⟨hvm, henc, hdec, hbudget, fun _ => rfl⟩
  | resets =>
    have hcap : (List.replicate s.stack.length (0 : Word)).length = s.stack.length :=
      List.length_replicate
    exact ⟨⟨hcap.ge, hcap ▸ hpos, hcap ▸ hmax, hprogram, hdata⟩, henc, hdec, hbudget, fun _ => rfl⟩
  | writesData a b =>
    exact ⟨⟨hsp, hpos, hmax, hprogram, Buffer.wf_set a b hdata⟩, henc, hdec, hbudget, hready⟩
  | leavesVm h =>
    refine ⟨h.vm.vmInv hvm, h.enc henc, h.dec hdec, ?_⟩
    simpa only [State.ExecInv, State.Ready, h.budget, h.vm.err] using And.intro hbudget hready

/-! ## `ip` during an instruction -/

/-- A property of states that every write of an instruction keeps, those to `ip` apart. -/
structure KeptOffIp (P : State → Prop) : Prop where
  raise : ∀ {s} c, P s → P (raise c s)
  setSp : ∀ {s} n, P s → P (s.setSp n)
  setCell : ∀ {s} i v, P s → P (s.setCell i v)
  setData : ∀ {s} d, P s → P (s.setData d)
  setHookRuns : ∀ {s} rs, P s → P (s.setHookRuns rs)

theorem ip_keptOffIp (v : Word) : KeptOffIp fun s => s.ip = v :=
  ⟨fun _ => id, fun _ => id, fun _ _ => id, fun _ => id, fun _ => id⟩

theorem Res.All.of_outcome {P : State → Prop} {r : Res Unit} (h : r.All P)
    (hr : r.outcome = .next t) : P t := by
  obtain ⟨u, hu, hp⟩ := h.outcome
  exact Host.Outcome.next.inj (hu.symm.trans hr) ▸ hp

namespace KeptOffIp

variable {P : State → Prop}

theorem pop (h : KeptOffIp P) : Keeps P Machine.pop := by
  intro s hs
  obtain ⟨v, -, hp⟩ | ⟨-, hp⟩ := pop_cases s <;> rw [hp]
  · exact h.setSp _ hs
  · exact h.raise _ hs

theorem push (h : KeptOffIp P) (v : Word) : Keeps P (Machine.push v) := by
  intro s hs
  obtain ⟨-, hp⟩ | ⟨-, hp⟩ := push_cases v s <;> rw [hp]
  · exact h.setCell _ _ (h.setSp _ hs)
  · exact h.raise _ hs

theorem take (h : KeptOffIp P) (o : Operand) : Keeps P o.take := by
  cases o with
  | popped => exact h.pop
  | imm v => exact fun _ hs => hs

theorem memRead (h : KeptOffIp P) (a : Word) (w : Width) : Keeps P (Machine.memRead a w) := by
  intro s hs
  by_cases hb : InBounds a (widthBytes w) s.data.len
  · rw [memRead_of_inBounds hb]; exact hs
  · rw [memRead_of_not_inBounds hb]; exact h.raise _ hs

theorem memWrite (h : KeptOffIp P) (a : Word) (w : Width) (v : Word) :
    Keeps P (Machine.memWrite a w v) := by
  intro s hs
  by_cases hb : InBounds a (widthBytes w) s.data.len
  · rw [memWrite_of_inBounds hb]; exact h.setData _ hs
  · rw [memWrite_of_not_inBounds hb]; exact h.raise _ hs

/-- The end of a block copy: two checks, then the write (45_block_copy.md R600, R601). -/
theorem checkedWrite (h : KeptOffIp P) {source dest : Prop} [Decidable source] [Decidable dest]
    (c d : ErrCode) (b : Buffer) (hs : P s) :
    (if ¬ source then .raised (Machine.raise c s)
      else if ¬ dest then .raised (Machine.raise d s) else .ok () (s.setData b) : Res Unit).All P := by
  split
  · exact h.raise c hs
  · split
    · exact h.raise d hs
    · exact h.setData b hs

/-- No action of a hook writes `ip` (47_system.md R707, R710). -/
theorem runHook (h : KeptOffIp P) (run : List HookAct) (hs : P s)
    (hr : Machine.runHook run s = .next t) : P t := by
  induction run generalizing s with
  | nil => cases hr; exact hs
  | cons act rest ih =>
    have after {α : Type} (r : Res α) (ha : r.All P)
        (he : afterPrimitive r (Machine.runHook rest) = .next t) : P t := by
      cases r with
      | ok a u => exact ih ha he
      | raised u => cases he; exact ha
    cases act with
    | inspect => exact ih hs hr
    | outside => exact ih hs hr
    | pop => exact after _ (h.pop s hs) hr
    | push v => exact after _ (h.push v s hs) hr
    | memRead a w => exact after _ (h.memRead a w s hs) hr
    | memWrite a w v => exact after _ (h.memWrite a w v s hs) hr
    | raise c =>
      simp only [Machine.runHook] at hr
      split at hr
      · cases hr
      · cases hr; exact h.raise c hs
    | breach b => cases hr
    | spin => cases hr

theorem sysCall (h : KeptOffIp P) (o : Operand) (hs : P s)
    (hr : Machine.sysCall o s = .next t) : P t := by
  obtain ⟨n, hn, -⟩ | ⟨hn, -⟩ := take_cases o s
  · have hpopped : P (s.setSp (s.sp + o.slots)) := h.setSp _ hs
    cases hh : s.hook with
    | none =>
      rw [sysCall_of_no_hook hn hh] at hr
      cases hr
      exact h.raise _ hpopped
    | some k =>
      rw [sysCall_of_hook hn hh] at hr
      exact h.runHook _ (h.setHookRuns _ hpopped) hr
  · rw [sysCall_of_no_number hn] at hr
    cases hr
    exact h.raise _ hs

end KeptOffIp

/-- The shapes of the control transfers (46_control_flow.md). -/
def Shape.isTransfer : Shape → Bool
  | .callTo _ | .jumpTo _ | .jumpToWhen _ _ | .jumpBy _ | .jumpByWhen _ _ => true
  | _ => false

theorem isTransfer_eq_shape (i : Instr) : isTransfer i = (shapeOf i).isTransfer := by
  cases i <;> rfl

/-- A shape that is no transfer is made of operations that leave `ip` alone. -/
theorem Shape.run_keptOffIp {P : State → Prop} (h : KeptOffIp P) {sh : Shape}
    (hsh : sh.isTransfer = false) (hs : P s) (hr : sh.run s = .next t) : P t := by
  cases sh with
  | halt => cases hr; exact h.raise _ hs
  | push v => exact (h.push v s hs).of_outcome hr
  | drop =>
    refine ((h.pop s hs).andThen fun _ _ h1 => ?_).of_outcome hr
    exact h1
  | dup =>
    exact ((h.pop s hs).andThen fun _ _ h1 =>
      (h.push _ _ h1).andThen fun _ => h.push _).of_outcome hr
  | swap =>
    exact ((h.pop s hs).andThen fun _ _ h1 => (h.pop _ h1).andThen fun _ _ h2 =>
      (h.push _ _ h2).andThen fun _ => h.push _).of_outcome hr
  | binary o f =>
    exact ((h.take o s hs).andThen fun _ _ h1 =>
      (h.pop _ h1).andThen fun _ => h.push _).of_outcome hr
  | unary o g => exact ((h.take o s hs).andThen fun _ => h.push _).of_outcome hr
  | load o w ext =>
    exact ((h.take o s hs).andThen fun _ _ h1 =>
      (h.memRead _ w _ h1).andThen fun _ => h.push _).of_outcome hr
  | store o w =>
    exact ((h.take o s hs).andThen fun _ _ h1 => (h.pop _ h1).andThen fun _ _ h2 =>
      (h.memWrite _ w _ _ h2).andThen fun _ => h.push _).of_outcome hr
  | storeDiscard o w =>
    exact ((h.take o s hs).andThen fun _ _ h1 =>
      (h.pop _ h1).andThen fun _ => h.memWrite _ w _).of_outcome hr
  | dataCopy o =>
    refine ((h.take o s hs).andThen fun _ _ h1 => (h.pop _ h1).andThen fun _ _ h2 =>
      (h.pop _ h2).andThen fun _ _ h3 => ?_).of_outcome hr
    exact h.checkedWrite _ _ _ h3
  | programCopy o =>
    refine ((h.take o s hs).andThen fun _ _ h1 => (h.pop _ h1).andThen fun _ _ h2 =>
      (h.pop _ h2).andThen fun _ _ h3 => ?_).of_outcome hr
    exact h.checkedWrite _ _ _ h3
  | callTo o => cases hsh
  | jumpTo o => cases hsh
  | jumpToWhen o test => cases hsh
  | jumpBy o => cases hsh
  | jumpByWhen o test => cases hsh
  | sysCall o => exact h.sysCall o hs hr

/-! ## The obligations -/

/-- Settles O49: a host call keeps the invariant effect by effect; otherwise the invariant says the VM is
`Ready`, an instruction runs, which keeps the core's part and touches no other, and `exec` closes it. -/
theorem stepKeepsTheInvariant : Obligations.StepKeepsTheInvariant := by
  unfold Obligations.StepKeepsTheInvariant
  intro s t hs h
  by_cases hb : s.budget = 0
  · obtain rfl | ⟨c, rest, -, he⟩ := step_control_next hb h
    · exact hs
    · exact he.inv hs
  · obtain ⟨hvm, henc, hdec, hbudget, hready⟩ := hs
    obtain ⟨u, hu, rfl⟩ := step_running_next hb (hready hb) h
    obtain ⟨hframe, hinv⟩ := runInstruction_kept hu
    exact closeInstruction_inv (hinv hvm) (hframe.enc ▸ henc) (hframe.dec ▸ hdec)
      (hframe.budget ▸ hbudget)

/-- Settles O7: with a fault latched no instruction runs, and the host's other calls write no register. -/
theorem faultedUntilAcknowledged : Obligations.FaultedUntilAcknowledged := by
  unfold Obligations.FaultedUntilAcknowledged
  intro s t hf h hc
  by_cases hb : s.budget = 0
  · obtain rfl | ⟨c, rest, hcalls, he⟩ := step_control_next hb h
    · exact ⟨rfl, rfl, rfl, rfl⟩
    · have hw : writesRegisters c = false := hc c rest ⟨hb, hcalls⟩
      exact ⟨he.err hw, he.registers (by rintro rfl; cases hw)⟩
  · obtain rfl := Host.Outcome.next.inj ((step_of_latched hb hf).symm.trans h)
    have hvm := closeInstruction_vmFrame s
    exact ⟨hvm.err, hvm.ip, hvm.sp, hvm.stack⟩

/-- Settles O8: what the calls may write, then the data write, then the inspections one by one. -/
theorem hostCallsKeepRegisters : Obligations.HostCallsKeepRegisters := by
  unfold Obligations.HostCallsKeepRegisters
  refine ⟨fun s t hb h => step_control_writes hb h, fun s a b rest => step_writeData,
    fun s rest => ⟨step_of_call, step_of_call, step_of_call, fun i hc => ?_, fun a hc => ?_⟩⟩
  · have hstep : step s = hostInspect (.cell i) (s.setCalls rest) := step_of_call hc
    rw [hstep]
    exact ⟨fun _ hv => hostInspect_of_cell hv, fun hi => hostInspect_of_no_cell hi⟩
  · have hstep : step s = hostInspect (.dataByte a) (s.setCalls rest) := step_of_call hc
    rw [hstep]
    exact ⟨fun ha => hostInspect_of_dataByte ha, fun ha => hostInspect_of_no_dataByte ha⟩

/-- Settles O46: an instruction that is no transfer runs a shape that is none. -/
theorem onlyTransfersWriteIp : Obligations.OnlyTransfersWriteIp := by
  unfold Obligations.OnlyTransfersWriteIp
  intro i s t hi h
  rw [isTransfer_eq_shape] at hi
  rw [exec_eq_run] at h
  exact Shape.run_keptOffIp (ip_keptOffIp s.ip) hi rfl h

/-- Settles O1: the three columns of 10_state.md R125 read off the definitions; the stack is a
`List.replicate` of zeros. -/
theorem initialAndResetValues : Obligations.InitialAndResetValues := by
  unfold Obligations.InitialAndResetValues
  refine ⟨fun p => ?_, fun s => ?_, fun s => rfl⟩
  · exact ⟨rfl, rfl, List.length_replicate, fun _ => List.eq_of_mem_replicate, rfl, rfl, rfl, rfl,
      rfl, rfl, rfl, rfl⟩
  · exact ⟨rfl, rfl, List.length_replicate, fun _ => List.eq_of_mem_replicate, rfl, rfl, rfl, rfl,
      rfl, rfl⟩

end Sys2Proof.Machine

end

/-! # Data memory (20_memory.md): reads after writes, and which instructions write it -/

section

namespace Sys2Proof.Machine

open Sys2Proof Sys2Proof.Claims

variable {s t : State}

/-! ## Runs of bytes -/

/-- A list of `n` bytes that agrees with a buffer from `a` on is the run of bytes there. -/
theorem bytesAt_eq {b : Buffer} {a n : Nat} {l : List Byte} (hl : l.length = n)
    (h : ∀ i < n, l[i]? = some (Buffer.get b (a + i))) : bytesAt b a n = l := by
  apply List.ext_getElem?
  intro i
  by_cases hi : i < n
  · rw [bytesAt_getElem? _ _ _ _ hi, h i hi]
  · rw [List.getElem?_eq_none (by simp; omega), List.getElem?_eq_none (by omega)]

theorem littleEndian_succ (d : Buffer) (a n : Nat) :
    littleEndian d a (n + 1) = (Buffer.get d a).toNat + 256 * littleEndian d (a + 1) n := by
  rw [littleEndian, Finset.sum_range_succ', littleEndian, Finset.mul_sum, Nat.add_comm]
  congr 1
  · simp
  · refine Finset.sum_congr rfl fun i _ => ?_
    rw [← Nat.add_assoc a i 1, Nat.add_right_comm a i 1]
    ring

/-- Up to four bytes hold the number that the sum of their places gives. -/
theorem leWord_bytesAt_toNat (d : Buffer) (a n : Nat) (h : n ≤ 4) :
    (leWord (bytesAt d a n)).toNat = littleEndian d a n := by
  induction n generalizing a with
  | zero => rfl
  | succ n ih =>
    rw [bytesAt, leWord_toNat_cons _ _ (by simp; omega), ih (a + 1) (by omega), littleEndian_succ]

theorem leWord_bytesAt (d : Buffer) (a n : Nat) (h : n ≤ 4) :
    leWord (bytesAt d a n) = BitVec.ofNat 32 (littleEndian d a n) := by
  rw [← leWord_bytesAt_toNat d a n h, BitVec.ofNat_toNat, BitVec.setWidth_eq]

theorem widthBytes_le (w : Width) : widthBytes w ≤ 4 := by
  cases w <;> decide

/-! ## A stored word -/

/-- Writing the low bytes of a word stores them. -/
theorem stored_writeBytes {b : Buffer} {a n : Nat} (v : Word) (hb : b.wf = true)
    (h : a + n ≤ b.len) : Stored b (writeBytes b a (wordBytes n v)) a n v := by
  refine ⟨writeBytes_len _ _ _, wf_writeBytes _ _ hb, fun c => ?_⟩
  split
  · next hc =>
    obtain ⟨i, rfl⟩ := Nat.exists_eq_add_of_le hc.1
    rw [Nat.add_sub_cancel_left]
    exact get_writeBytes_inside hb (by simpa using h) (wordBytes_getElem? n v i (by omega))
  · next hc => exact get_writeBytes_outside b _ (by rw [wordBytes_length]; omega)

section Stored

variable {old d : Buffer} {a n : Nat} {v : Word}

/-- Inside a stored word, the bytes from some place on are those of the shifted word. -/
theorem bytesAt_inside_stored (h : Stored old d a n v) {b m : Nat} (hab : a ≤ b)
    (hbm : b + m ≤ a + n) : bytesAt d b m = wordBytes m (v >>> (8 * (b - a))) := by
  obtain ⟨-, -, hget⟩ := h
  refine bytesAt_eq (wordBytes_length _ _) fun i hi => ?_
  rw [wordBytes_getElem? _ _ _ hi, hget, if_pos ⟨by omega, by omega⟩, ← BitVec.shiftRight_add,
    ← Nat.mul_add, Nat.sub_add_comm hab]

/-- The number those bytes hold. -/
theorem leWord_inside_stored (h : Stored old d a n v) {b m : Nat} (hab : a ≤ b)
    (hbm : b + m ≤ a + n) (hm : m ≤ 4) :
    leWord (bytesAt d b m) = BitVec.ofNat 32 (v.toNat / 256 ^ (b - a) % 256 ^ m) := by
  have hv : (v >>> (8 * (b - a))).toNat = v.toNat / 256 ^ (b - a) := by
    rw [BitVec.toNat_ushiftRight, Nat.shiftRight_eq_div_pow, Nat.pow_mul]
  rw [bytesAt_inside_stored h hab hbm, ← hv, ← leWord_wordBytes_toNat m _ hm, BitVec.ofNat_toNat,
    BitVec.setWidth_eq]

theorem bytesAt_outside_stored (h : Stored old d a n v) {b m : Nat}
    (hb : b + m ≤ a ∨ a + n ≤ b) : bytesAt d b m = bytesAt old b m := by
  obtain ⟨-, -, hget⟩ := h
  refine bytesAt_eq (bytesAt_length _ _ _) fun i hi => ?_
  rw [bytesAt_getElem? _ _ _ _ hi, hget, if_neg (by omega)]

end Stored

/-- A read that raises no fault was in bounds, yields its bytes and changes nothing. -/
theorem memRead_ok {a u : Word} {w : Width} (h : memRead a w s = .ok u t) :
    InBounds a (widthBytes w) s.data.len ∧ u = leWord (bytesAt s.data a.toNat (widthBytes w)) ∧
      t = s := by
  by_cases hb : InBounds a (widthBytes w) s.data.len
  · rw [memRead_of_inBounds hb] at h
    cases h
    exact ⟨hb, rfl, rfl⟩
  · rw [memRead_of_not_inBounds hb] at h
    cases h

/-! ## What an operation that does not write data memory leaves alone -/

/-- Two states differ in nothing but `ip`, `sp`, the stack and `err`. -/
structure RegisterFrame (s t : State) : Prop where
  rest : t = { s with ip := t.ip, sp := t.sp, stack := t.stack, err := t.err }

namespace RegisterFrame

theorem refl (s : State) : RegisterFrame s s := ⟨rfl⟩

theorem raise (h : RegisterFrame s t) (c : ErrCode) : RegisterFrame s (Machine.raise c t) :=
  ⟨congrArg (Machine.raise c) h.rest⟩

theorem setIp (h : RegisterFrame s t) (v : Word) : RegisterFrame s (t.setIp v) :=
  ⟨congrArg (·.setIp v) h.rest⟩

theorem setSp (h : RegisterFrame s t) (n : Nat) : RegisterFrame s (t.setSp n) :=
  ⟨congrArg (·.setSp n) h.rest⟩

theorem setCell (h : RegisterFrame s t) (i : Nat) (v : Word) : RegisterFrame s (t.setCell i v) :=
  ⟨congrArg (·.setCell i v) h.rest⟩

theorem data (h : RegisterFrame s t) : t.data = s.data := (congrArg State.data h.rest :)

theorem hookRuns (h : RegisterFrame s t) : t.hookRuns = s.hookRuns :=
  (congrArg State.hookRuns h.rest :)

theorem hookCount (h : RegisterFrame s t) : t.hookCount = s.hookCount :=
  (congrArg State.hookCount h.rest :)

variable (s)

theorem pop : Keeps (RegisterFrame s) Machine.pop := by
  intro u h
  obtain ⟨v, -, hp⟩ | ⟨-, hp⟩ := pop_cases u <;> rw [hp]
  · exact h.setSp _
  · exact h.raise _

theorem push (v : Word) : Keeps (RegisterFrame s) (Machine.push v) := by
  intro u h
  obtain ⟨-, hp⟩ | ⟨-, hp⟩ := push_cases v u <;> rw [hp]
  · exact (h.setSp _).setCell _ _
  · exact h.raise _

theorem take (o : Operand) : Keeps (RegisterFrame s) o.take := by
  cases o with
  | popped => exact pop s
  | imm v => exact fun _ h => h

theorem memRead (a : Word) (w : Width) : Keeps (RegisterFrame s) (Machine.memRead a w) := by
  intro u h
  by_cases hb : InBounds a (widthBytes w) u.data.len
  · rw [memRead_of_inBounds hb]; exact h
  · rw [memRead_of_not_inBounds hb]; exact h.raise _

end RegisterFrame

/-- The shapes that write data memory (20_memory.md R203). -/
def Shape.mayWriteData : Shape → Bool
  | .store _ _ | .storeDiscard _ _ | .dataCopy _ | .programCopy _ | .sysCall _ => true
  | _ => false

theorem mayWriteData_eq_shape (i : Instr) : mayWriteData i = (shapeOf i).mayWriteData := by
  cases i <;> rfl

/-- The other shapes are made of operations on `ip`, `sp`, the stack and `err`. -/
theorem Shape.run_registerFrame {sh : Shape} (hsh : sh.mayWriteData = false)
    (hr : sh.run s = .next t) : RegisterFrame s t := by
  have take (o : Operand) : (o.take s).All (RegisterFrame s) := RegisterFrame.take s o s (.refl s)
  have pop : (Machine.pop s).All (RegisterFrame s) := RegisterFrame.pop s s (.refl s)
  cases sh with
  | halt => cases hr; exact (RegisterFrame.refl s).raise _
  | push v => exact (RegisterFrame.push s v s (.refl s)).of_outcome hr
  | drop =>
    refine (pop.andThen fun _ _ h => ?_).of_outcome hr
    exact h
  | dup =>
    exact (pop.andThen fun x u h => (RegisterFrame.push s x u h).andThen fun _ =>
      RegisterFrame.push s x).of_outcome hr
  | swap =>
    exact (pop.andThen fun y u h => (RegisterFrame.pop s u h).andThen fun x u h =>
      (RegisterFrame.push s y u h).andThen fun _ => RegisterFrame.push s x).of_outcome hr
  | binary o f =>
    exact ((take o).andThen fun _ u h => (RegisterFrame.pop s u h).andThen fun _ =>
      RegisterFrame.push s _).of_outcome hr
  | unary o g => exact ((take o).andThen fun _ => RegisterFrame.push s _).of_outcome hr
  | load o w ext =>
    exact ((take o).andThen fun a u h => (RegisterFrame.memRead s a w u h).andThen fun _ =>
      RegisterFrame.push s _).of_outcome hr
  | callTo o =>
    refine ((take o).andThen fun _ u h =>
      (RegisterFrame.push s u.ip u h).andThen fun _ _ h => ?_).of_outcome hr
    exact h.setIp _
  | jumpTo o =>
    refine ((take o).andThen fun _ _ h => ?_).of_outcome hr
    exact h.setIp _
  | jumpToWhen o test =>
    refine (pop.andThen fun cond u h =>
      (RegisterFrame.take s o u h).andThen fun addr u h => ?_).of_outcome hr
    show RegisterFrame s (if test cond then u.setIp addr else u)
    split
    · exact h.setIp _
    · exact h
  | jumpBy o =>
    refine ((take o).andThen fun _ u h =>
      (RegisterFrame.push s u.ip u h).andThen fun _ _ h => ?_).of_outcome hr
    exact h.setIp _
  | jumpByWhen o test =>
    refine (pop.andThen fun cond u h =>
      (RegisterFrame.take s o u h).andThen fun delta u h => ?_).of_outcome hr
    show RegisterFrame s (if test cond then u.setIp (u.ip + delta) else u)
    split
    · exact h.setIp _
    · exact h
  | store o w => cases hsh
  | storeDiscard o w => cases hsh
  | dataCopy o => cases hsh
  | programCopy o => cases hsh
  | sysCall o => cases hsh

/-! ## No operation both writes data memory and raises a fault -/

/-- An outcome that latched nothing new, or left data memory as it was. -/
def KeepsErrOrData (s : State) (r : Host.Outcome State Fault Refusal) : Prop :=
  ∀ t, r = .next t → t.err = s.err ∨ t.data = s.data

theorem keepsErrOrData_of_err (h : t.err = s.err) : KeepsErrOrData s (.next t) := by
  rintro _ ⟨⟩
  exact .inl h

theorem keepsErrOrData_of_data (h : t.data = s.data) : KeepsErrOrData s (.next t) := by
  rintro _ ⟨⟩
  exact .inr h

/-- Two templates that end alike. -/
theorem bothKeepErrOrData_of_data {r q : Host.Outcome State Fault Refusal}
    (h : r = .next t ∧ q = .next t) (hd : t.data = s.data) :
    KeepsErrOrData s r ∧ KeepsErrOrData s q := by
  obtain ⟨rfl, rfl⟩ := h
  exact ⟨keepsErrOrData_of_data hd, keepsErrOrData_of_data hd⟩

/-- The bounds check comes before the write, and the push-back after it refills a cell just popped
(44_load_store.md R556). -/
theorem stores_keepErrOrData (o : Operand) (w : Width) (s : State) :
    KeepsErrOrData s (store o w s) ∧ KeepsErrOrData s (storeDiscard o w s) := by
  cases ha : o.value s with
  | none =>
    exact bothKeepErrOrData_of_data (store_of_no_address w ha) rfl
  | some a =>
    cases hv : s.stack[s.sp + o.slots]? with
    | none =>
      exact bothKeepErrOrData_of_data (store_of_no_value w ha hv) rfl
    | some v =>
      by_cases hb : InBounds a (widthBytes w) s.data.len
      · rw [store_of_inBounds w ha hv hb, storeDiscard_of_inBounds w ha hv hb]
        exact ⟨keepsErrOrData_of_err rfl, keepsErrOrData_of_err rfl⟩
      · exact bothKeepErrOrData_of_data (store_of_not_inBounds w ha hv hb) rfl

/-- Both bounds checks come before the first byte (45_block_copy.md R600, R601). -/
theorem copies_keepErrOrData (o : Operand) (s : State) :
    KeepsErrOrData s (dataCopy o s) ∧ KeepsErrOrData s (programCopy o s) := by
  cases hl : o.value s with
  | none =>
    exact bothKeepErrOrData_of_data (copy_of_no_len hl) rfl
  | some len =>
    cases hs : s.stack[s.sp + o.slots]? with
    | none =>
      exact bothKeepErrOrData_of_data (copy_of_no_src hl hs) rfl
    | some src =>
      cases hd : s.stack[s.sp + o.slots + 1]? with
      | none =>
        exact bothKeepErrOrData_of_data (copy_of_no_dst hl hs hd) rfl
      | some dst =>
        rw [dataCopy_of_operands hl hs hd, programCopy_of_operands hl hs hd]
        constructor
        · split
          · exact keepsErrOrData_of_data rfl
          · exact keepsErrOrData_of_err rfl
        · split
          · exact keepsErrOrData_of_data rfl
          · split
            · exact keepsErrOrData_of_data rfl
            · exact keepsErrOrData_of_err rfl

/-- The shape of syscall. -/
def Shape.isSyscall : Shape → Bool
  | .sysCall _ => true
  | _ => false

theorem isSyscall_eq_shape (i : Instr) : isSyscall i = (shapeOf i).isSyscall := by
  cases i <;> rfl

theorem Shape.run_keepsErrOrData {sh : Shape} (hsh : sh.isSyscall = false) (s : State) :
    KeepsErrOrData s (sh.run s) := by
  by_cases hw : sh.mayWriteData = false
  · exact fun t hr => .inr (Shape.run_registerFrame hw hr).data
  · cases sh with
    | store o w => exact (stores_keepErrOrData o w s).1
    | storeDiscard o w => exact (stores_keepErrOrData o w s).2
    | dataCopy o => exact (copies_keepErrOrData o s).1
    | programCopy o => exact (copies_keepErrOrData o s).2
    | sysCall o => cases hsh
    | _ => exact absurd rfl hw

/-! ## The obligations -/

/-- Settles O27: a write stores the word's low bytes, so a read inside it sees the bytes of the shifted
word and a read beside it the old bytes. -/
theorem memoryReadAfterWrite : Obligations.MemoryReadAfterWrite := by
  unfold Obligations.MemoryReadAfterWrite
  refine ⟨fun s a w => ⟨fun h => ?_, fun h => memRead_of_not_inBounds (Nat.not_le.2 h)⟩,
    fun s a v w h => memWrite_of_not_inBounds (Nat.not_le.2 h), fun s a v w hwf h => ?_⟩
  · rw [memRead_of_inBounds h, leWord_bytesAt _ _ _ (widthBytes_le w)]
  · have hst := stored_writeBytes v hwf h
    refine ⟨_, hst, memWrite_of_inBounds h, fun b w' hab hbw => ?_, fun b w' hb u hu => ?_⟩
    · rw [memRead_of_inBounds (by simp only [InBounds, writeBytes_len]; omega)]
      exact congrArg (Res.ok · _) (leWord_inside_stored hst hab hbw (widthBytes_le w'))
    · obtain ⟨hin, rfl, -⟩ := memRead_ok hu
      rw [memRead_of_inBounds (by simpa only [InBounds, writeBytes_len] using hin),
        bytesAt_outside_stored hst hb]

/-- Settles O45: the shapes of the other instructions write `ip`, `sp`, the stack and `err` alone. -/
theorem onlyStoresWriteData : Obligations.OnlyStoresWriteData := by
  unfold Obligations.OnlyStoresWriteData
  intro i s t hi h
  rw [mayWriteData_eq_shape] at hi
  rw [exec_eq_run] at h
  have hframe := Shape.run_registerFrame hi h
  exact ⟨fun a => by rw [hframe.data], hframe.data, hframe.hookRuns, hframe.hookCount⟩

/-- Settles O48: every check of a store or a block copy comes before its write. -/
theorem faultingInstructionsKeepData : Obligations.FaultingInstructionsKeepData := by
  unfold Obligations.FaultingInstructionsKeepData
  intro i s t hi hready h hfault
  rw [isSyscall_eq_shape] at hi
  rw [exec_eq_run] at h
  obtain herr | hdata := Shape.run_keepsErrOrData hi s t h
  · exact absurd (herr.trans hready) hfault
  · exact hdata

end Sys2Proof.Machine

end

/-! # Encoding (30_encoding.md): the opcode map both ways, the fetch, and the frames of the codec -/

section

namespace Sys2Proof

open Sys2Proof.Claims

/-! ## From an instruction to its bytes -/

/-- An instruction is in the opcode map (30_encoding.md R334): its encoding is an opcode byte and
the immediate bytes of that byte's class, and the decoder's table for the class gives it back. -/
inductive InOpcodeMap (i : Instr) : Prop where
  | formS {opc : Byte} (hclass : opc.toNat / 64 = 0) (henc : encode i = [opc])
    (hdec : decodeS (selector opc) = some i)
  | formI8 {opc : Byte} {raw : BitVec 8} (hclass : opc.toNat / 64 = 1)
    (henc : encode i = opc :: immBytes 1 raw) (hdec : decodeI8 (selector opc) raw = some i)
  | formI16 {opc : Byte} {raw : BitVec 16} (hclass : opc.toNat / 64 = 2)
    (henc : encode i = opc :: immBytes 2 raw) (hdec : decodeI16 (selector opc) raw = some i)
  | formI32 {opc : Byte} {raw : BitVec 32} (hclass : opc.toNat / 64 = 3)
    (henc : encode i = opc :: immBytes 4 raw) (hdec : decodeI32 (selector opc) raw = some i)

/-- The 182 rows of the map, form by form. -/
theorem inOpcodeMap (i : Instr) : InOpcodeMap i := by
  cases i with
  | halt | drop | dup | swap | add | sub | mul | and | or | xor | shl | shrUi | shrSi | not
  | neg | lnot | eq | ne | ltUi | leUi | gtUi | geUi | ltSi | leSi | gtSi | geSi | loadU8
  | loadU16 | loadU32 | loadS8 | loadS16 | storeU8 | storeU16 | storeU32 | storeU8Discard
  | storeU16Discard | storeU32Discard | dcopy | pcopy | call | jumpAbs | jumpAbsIf
  | jumpAbsIfNot | jumpRel | jumpRelIf | jumpRelIfNot | syscall => exact .formS rfl rfl rfl
  | pushU8 | pushS8 | addImm8 | subImm8 | mulImm8 | andImm8 | orImm8 | xorImm8 | shlImm8
  | shrUiImm8 | shrSiImm8 | notImm8 | negImm8 | lnotImm8 | eqImm8 | neImm8 | ltUiImm8 | leUiImm8
  | gtUiImm8 | geUiImm8 | ltSiImm8 | leSiImm8 | gtSiImm8 | geSiImm8 | loadU8Imm8 | loadU16Imm8
  | loadU32Imm8 | loadS8Imm8 | loadS16Imm8 | storeU8Imm8 | storeU16Imm8 | storeU32Imm8
  | storeU8DiscardImm8 | storeU16DiscardImm8 | storeU32DiscardImm8 | dcopyImm8 | pcopyImm8
  | callImm8 | jumpAbsImm8 | jumpAbsIfImm8 | jumpAbsIfNotImm8 | jumpRelImm8 | jumpRelIfImm8
  | jumpRelIfNotImm8 | syscallImm8 => exact .formI8 rfl rfl rfl
  | pushU16 | pushS16 | addImm16 | subImm16 | mulImm16 | andImm16 | orImm16 | xorImm16
  | shlImm16 | shrUiImm16 | shrSiImm16 | notImm16 | negImm16 | lnotImm16 | eqImm16 | neImm16
  | ltUiImm16 | leUiImm16 | gtUiImm16 | geUiImm16 | ltSiImm16 | leSiImm16 | gtSiImm16
  | geSiImm16 | loadU8Imm16 | loadU16Imm16 | loadU32Imm16 | loadS8Imm16 | loadS16Imm16
  | storeU8Imm16 | storeU16Imm16 | storeU32Imm16 | storeU8DiscardImm16 | storeU16DiscardImm16
  | storeU32DiscardImm16 | dcopyImm16 | pcopyImm16 | callImm16 | jumpAbsImm16 | jumpAbsIfImm16
  | jumpAbsIfNotImm16 | jumpRelImm16 | jumpRelIfImm16 | jumpRelIfNotImm16 | syscallImm16 =>
    exact .formI16 rfl rfl rfl
  | _ => exact .formI32 rfl rfl rfl

theorem decode_encode (i : Instr) (rest : List Byte) :
    decode (encode i ++ rest) = .instr i rest := by
  cases inOpcodeMap i with
  | formS hclass henc hdec =>
    rw [henc]
    exact decode_of_some (imm := []) (by simp [immLength, hclass])
      (by simpa only [decodeOp, hclass] using hdec)
  | formI8 hclass henc hdec => rw [henc]; exact decode_imm8 rest hclass hdec
  | formI16 hclass henc hdec => rw [henc]; exact decode_imm16 rest hclass hdec
  | formI32 hclass henc hdec => rw [henc]; exact decode_imm32 rest hclass hdec

/-! ## From bytes to an instruction -/

/-- The opcode byte of class `c` and selector `k` (30_encoding.md R300). -/
theorem ofNat_class_selector {opc : Byte} {c : Nat} (h : opc.toNat / 64 = c) :
    BitVec.ofNat 8 (64 * c + selector opc) = opc := by
  rw [← h, selector, Nat.div_add_mod, BitVec.ofNat_toNat, BitVec.setWidth_eq]

theorem opcode_class_cases (opc : Byte) :
    opc.toNat / 64 = 0 ∨ opc.toNat / 64 = 1 ∨ opc.toNat / 64 = 2 ∨ opc.toNat / 64 = 3 := by
  have := opc.isLt
  omega

theorem selector_lt (opc : Byte) : selector opc < 64 := Nat.mod_lt _ (by decide)

/-- The low bytes of a word are those of the word cut down to them. -/
theorem immBytes_setWidth (n : Nat) (w : Word) :
    immBytes n (w.setWidth (8 * n)) = wordBytes n w := by
  apply List.ext_getElem?
  intro j
  by_cases hj : j < n
  · rw [immBytes, wordBytes_getElem? _ _ _ hj, wordBytes_getElem? _ _ _ hj]
    congr 1
    ext b hb
    have hin : 8 * j + b < 8 * n := by omega
    simpa [hin] using BitVec.lt_of_getLsbD
  · rw [List.getElem?_eq_none (by simp; omega), List.getElem?_eq_none (by simp; omega)]

/-! The decoder's four tables, row by row: a row's instruction has the row's selector in its
encoding. -/

theorem encode_of_decodeS {k : Nat} {i : Instr} (h : decodeS k = some i) :
    encode i = [BitVec.ofNat 8 (64 * 0 + k)] := by
  unfold decodeS at h
  split at h <;> cases h <;> rfl

theorem encode_of_decodeI8 {k : Nat} {raw : BitVec 8} {i : Instr} (h : decodeI8 k raw = some i) :
    encode i = BitVec.ofNat 8 (64 * 1 + k) :: immBytes 1 raw := by
  unfold decodeI8 at h
  split at h <;> cases h <;> rfl

theorem encode_of_decodeI16 {k : Nat} {raw : BitVec 16} {i : Instr} (h : decodeI16 k raw = some i) :
    encode i = BitVec.ofNat 8 (64 * 2 + k) :: immBytes 2 raw := by
  unfold decodeI16 at h
  split at h <;> cases h <;> rfl

theorem encode_of_decodeI32 {k : Nat} {raw : BitVec 32} {i : Instr} (h : decodeI32 k raw = some i) :
    encode i = BitVec.ofNat 8 (64 * 3 + k) :: immBytes 4 raw := by
  unfold decodeI32 at h
  split at h <;> cases h <;> rfl

/-- The instruction read from an opcode byte and a raw immediate has that byte and the immediate's
low bytes as its encoding. -/
theorem encode_of_decodeOp {opc : Byte} {w : Word} {i : Instr} (h : decodeOp opc w = some i) :
    encode i = opc :: wordBytes (immLength opc) w := by
  obtain hc | hc | hc | hc := opcode_class_cases opc <;> simp only [decodeOp, hc] at h <;>
    simp only [immLength, hc]
  · rw [encode_of_decodeS h, ofNat_class_selector hc, wordBytes]
  · rw [encode_of_decodeI8 h, ofNat_class_selector hc, ← immBytes_setWidth 1]
  · rw [encode_of_decodeI16 h, ofNat_class_selector hc, ← immBytes_setWidth 2]
  · rw [encode_of_decodeI32 h, ofNat_class_selector hc, immBytes, BitVec.setWidth_eq]

/-- Bytes that decode to an instruction are an opcode byte, the immediate bytes of its class and the
rest, and the first two are the instruction's encoding. -/
theorem encode_of_decode {bytes rest : List Byte} {i : Instr} (h : decode bytes = .instr i rest) :
    ∃ opc imm, bytes = opc :: (imm ++ rest) ∧ imm.length = immLength opc ∧
      encode i = opc :: imm := by
  obtain ⟨opc, imm, hbytes, hlen, hop⟩ := decode_instr_cases h
  have hle : imm.length ≤ 4 := hlen ▸ immLength_le opc
  refine ⟨opc, imm, hbytes, hlen, ?_⟩
  rw [encode_of_decodeOp hop, ← hlen, wordBytes_leWord imm hle]

/-- An encoding is one opcode byte and the immediate bytes of its class (30_encoding.md R302). -/
theorem encode_eq_cons (i : Instr) :
    ∃ opc imm, encode i = opc :: imm ∧ imm.length = immLength opc := by
  obtain ⟨opc, imm, -, hlen, henc⟩ := encode_of_decode (decode_encode i [])
  exact ⟨opc, imm, henc, hlen⟩

/-! ## The legal opcode bytes -/

/-! The decoder's four tables, selector by selector: whatever the immediate, the rows that are there
are the legal forms. -/

theorem decodeS_isSome {k : Nat} (hk : k < 64) : (decodeS k).isSome = formLegal k .S := by
  interval_cases k <;> rfl

theorem decodeI8_isSome {k : Nat} (hk : k < 64) (raw : BitVec 8) :
    (decodeI8 k raw).isSome = formLegal k .I8 := by
  interval_cases k <;> rfl

theorem decodeI16_isSome {k : Nat} (hk : k < 64) (raw : BitVec 16) :
    (decodeI16 k raw).isSome = formLegal k .I16 := by
  interval_cases k <;> rfl

theorem decodeI32_isSome {k : Nat} (hk : k < 64) (raw : BitVec 32) :
    (decodeI32 k raw).isSome = formLegal k .I32 := by
  interval_cases k <;> rfl

/-- Whether bytes stand for an instruction is a matter of the opcode byte alone (30_encoding.md
R309). -/
theorem decodeOp_isSome (opc : Byte) (w : Word) : (decodeOp opc w).isSome = opcodeLegal opc := by
  have hk := selector_lt opc
  obtain hc | hc | hc | hc := opcode_class_cases opc <;>
    simp only [decodeOp, opcodeLegal, formOf, hc]
  · exact decodeS_isSome hk
  · exact decodeI8_isSome hk _
  · exact decodeI16_isSome hk _
  · exact decodeI32_isSome hk _

/-- The list of 30_encoding.md R332 is the complement of the legal forms of R309. -/
theorem reservedOpcode_eq_not_opcodeLegal :
    ∀ opc : Byte, reservedOpcode opc = !opcodeLegal opc := by
  decide

theorem decodeOp_isSome_eq_not_reserved (opc : Byte) (w : Word) :
    (decodeOp opc w).isSome = !reservedOpcode opc := by
  rw [decodeOp_isSome, reservedOpcode_eq_not_opcodeLegal, Bool.not_not]

section Room

variable {opc : Byte} {rest : List Byte}

/-- Enough bytes behind an opcode byte are its immediate bytes and what follows them. -/
theorem exists_imm_append (h : immLength opc ≤ rest.length) :
    ∃ imm after, rest = imm ++ after ∧ imm.length = immLength opc :=
  ⟨rest.take (immLength opc), rest.drop (immLength opc), (List.take_append_drop _ _).symm,
    List.length_take_of_le h⟩

theorem decode_of_not_reserved (hr : reservedOpcode opc = false) (h : immLength opc ≤ rest.length) :
    ∃ i after, decode (opc :: rest) = .instr i after := by
  obtain ⟨imm, after, rfl, hlen⟩ := exists_imm_append h
  have hsome : (decodeOp opc (leWord imm)).isSome = true := by
    rw [decodeOp_isSome_eq_not_reserved, hr, Bool.not_false]
  obtain ⟨i, hop⟩ := Option.isSome_iff_exists.1 hsome
  exact ⟨i, after, decode_of_some hlen hop⟩

theorem decode_of_reserved (hr : reservedOpcode opc = true) (h : immLength opc ≤ rest.length) :
    ∃ r, decode (opc :: rest) = .rejected r := by
  obtain ⟨imm, after, rfl, hlen⟩ := exists_imm_append h
  have hsome : (decodeOp opc (leWord imm)).isSome = false := by
    rw [decodeOp_isSome_eq_not_reserved, hr, Bool.not_true]
  exact decode_of_none hlen (by simpa using hsome)

end Room

end Sys2Proof

namespace Sys2Proof.Machine

open Sys2Proof Sys2Proof.Claims

variable {s t : State}

/-! ## Fetch and the instruction cycle -/

/-- A fault that an instruction raises ends the `exec` call (60_exceptions.md R903). -/
theorem closeOutcome_raise {c : ErrCode} (hc : c ≠ .success) (s : State) :
    closeOutcome (.next (raise c s)) = .next { s with err := c, budget := 0, ret := .err c } := by
  rw [closeOutcome_next]
  obtain ⟨-, h⟩ | ⟨hr, -, -⟩ | ⟨hr, -, -⟩ := closeInstruction_cases (raise c s)
  · rw [h]; rfl
  · exact absurd hr hc
  · exact absurd hr hc

/-- A fetch that does not fit into program memory (30_encoding.md R315, R316). -/
theorem step_of_fetch_fault (hb : s.budget ≠ 0) (hr : s.Ready)
    (h : s.program.len < s.ip.toNat + 1 + immLength (Buffer.get s.program s.ip.toNat)) :
    step s = .next { s with err := .programAddressOutOfBounds, budget := 0,
                            ret := .err .programAddressOutOfBounds } := by
  rw [step_of_running hb hr, runInstruction_of_no_fetch (fetch_of_no_room h),
    closeOutcome_raise (by decide)]

theorem step_of_decoded {bytes after : List Byte} {i : Instr} (hb : s.budget ≠ 0) (hr : s.Ready)
    (hf : fetch s = some bytes) (hd : decode bytes = .instr i after) :
    step s =
      closeOutcome (exec i { s with ip := BitVec.ofNat 32 (s.ip.toNat + bytes.length) }) := by
  rw [step_of_running hb hr, runInstruction_of_instr hf hd]
  rfl

/-- Bytes that are no instruction fault with `ip` past them (30_encoding.md R317). -/
theorem step_of_rejected {bytes : List Byte} {r : DecodeReject} (hb : s.budget ≠ 0) (hr : s.Ready)
    (hf : fetch s = some bytes) (hd : decode bytes = .rejected r) :
    step s = .next { s with ip := BitVec.ofNat 32 (s.ip.toNat + bytes.length), err := .badOpcode,
                            budget := 0, ret := .err .badOpcode } := by
  rw [step_of_running hb hr, runInstruction_of_rejected hf hd, closeOutcome_raise (by decide)]
  rfl

/-- Where an encoding stands at `ip` inside program memory, the fetch takes exactly its bytes. -/
theorem fetch_of_encoding {i : Instr} (hlen : s.ip.toNat + (encode i).length ≤ s.program.len)
    (hat : ∀ j b, (encode i)[j]? = some b → Buffer.get s.program (s.ip.toNat + j) = b) :
    fetch s = some (encode i) := by
  obtain ⟨opc, imm, henc, himm⟩ := encode_eq_cons i
  rw [henc, List.length_cons, himm] at hlen
  rw [henc] at hat ⊢
  have hopc : Buffer.get s.program s.ip.toNat = opc := hat 0 opc rfl
  have hbytes : bytesAt s.program (s.ip.toNat + 1) (immLength opc) = imm := by
    refine bytesAt_eq himm fun j hj => ?_
    have hget : imm[j]? = some imm[j] := List.getElem?_eq_getElem (himm ▸ hj)
    have hstands : Buffer.get s.program (s.ip.toNat + (j + 1)) = imm[j] := hat (j + 1) _ hget
    rw [hget, Nat.add_assoc, Nat.add_comm 1 j, hstands]
  rw [fetch_of_room (by rw [hopc]; omega), hopc, hbytes]

theorem raisesBadOpcode_of_reserved {opc : Byte} (h : reservedOpcode opc = true) :
    RaisesBadOpcode opc := by
  rintro s hb hr rfl
  refine ⟨fun hroom => ?_, step_of_fetch_fault hb hr⟩
  obtain ⟨r, hd⟩ := decode_of_reserved h (bytesAt_length s.program (s.ip.toNat + 1) _).ge
  rw [step_of_rejected hb hr (fetch_of_room hroom) hd, List.length_cons, bytesAt_length,
    Nat.add_assoc, Nat.add_comm 1]

/-! ## The frames passed to the sink -/

/-- Every frame the sink has accepted is one (30_encoding.md R351). -/
def FramesOk (s : State) : Prop := ∀ f ∈ s.frames, IsFrame f

theorem FramesOk.of_eq (h : FramesOk s) (heq : t.frames = s.frames) : FramesOk t := by
  rwa [FramesOk, heq]

/-- A header declares at most 63 payload bytes. -/
theorem isFrame_length_le {f : List Byte} (h : IsFrame f) : f.length ≤ frameMax := by
  obtain ⟨hd, payload, rfl, hlen⟩ := h
  rw [List.length_cons, hlen, frameMax]
  omega

/-- A header and the payload bytes it counts are a frame. -/
theorem isFrame_frameHeader (final delim : Bool) {payload : List Byte} {n : Nat} (hn : n ≤ 63)
    (hp : payload.length = 63) :
    IsFrame (frameHeader final delim n :: payload.take n) := by
  refine ⟨_, _, rfl, ?_⟩
  rw [← headerLength_eq, frameHeader_length final delim hn, List.length_take_of_le (hp ▸ hn)]

theorem encFlush_framesOk (hc : s.enc.count ≤ 63) (hp : s.enc.payload.length = 63)
    (hs : FramesOk s) : FramesOk (encFlush s) := by
  intro f hf
  obtain hf | hf := List.mem_append.1 hf
  · exact hs f hf
  · obtain rfl := List.mem_singleton.1 hf
    exact isFrame_frameHeader _ _ hc hp

theorem appendU8_framesOk (b : Byte) (he : s.enc.Inv) (hs : FramesOk s) :
    FramesOk (appendU8 b s) := by
  obtain ⟨hlen, hcount⟩ := he
  obtain ⟨-, ha⟩ | ⟨-, ha⟩ := appendU8_cases b s <;> rw [ha]
  · exact encFlush_framesOk (Nat.succ_le_succ hcount) ((List.length_set ..).trans hlen) hs
  · exact hs

theorem appendBuf_framesOk (bytes : List Byte) (he : s.enc.Inv) (hs : FramesOk s) :
    FramesOk (appendBuf bytes s) := by
  induction bytes generalizing s with
  | nil => exact hs
  | cons b rest ih => exact ih (appendU8_inv b he) (appendU8_framesOk b he hs)

theorem encFlush_framesOk_of_inv (he : s.enc.Inv) (hs : FramesOk s) : FramesOk (encFlush s) :=
  encFlush_framesOk (he.2.trans (by decide)) he.1 hs

theorem encWrite_framesOk (he : s.enc.Inv) (hs : FramesOk s) : FramesOk (encWrite s).1 := by
  obtain ⟨-, h⟩ | ⟨-, h⟩ := encWrite_cases s <;> rw [h]
  · exact hs
  · exact encFlush_framesOk_of_inv he hs

theorem withEncoder_framesOk {f : State → State × CodecResult} (hf : FramesOk (f s).1)
    (h : withEncoder f s = .next t) : FramesOk t := by
  cases hb : s.enc.bound with
  | true => cases (withEncoder_of_bound f hb).symm.trans h; exact hf
  | false => cases (withEncoder_of_unbound f hb).symm.trans h

/-- The decoder passes nothing to the encoder's sink. -/
theorem readFrameStep_frames {got : List Byte} (h : readFrameStep got s = .next t) :
    t.frames = s.frames := by
  obtain ⟨-, hr⟩ | ⟨-, hr⟩ | ⟨-, -, -, hr⟩ | ⟨-, -, -, hr⟩ := readFrameStep_cases got s <;>
    cases hr.symm.trans h <;> rfl

theorem openExec_frames (count : Word) (s : State) : (openExec count s).frames = s.frames := by
  obtain ⟨-, h⟩ | ⟨-, -, h⟩ | ⟨-, -, h⟩ := openExec_cases count s <;> rw [h] <;> rfl

theorem closeInstruction_frames (s : State) : (closeInstruction s).frames = s.frames := by
  obtain ⟨-, h⟩ | ⟨-, -, h⟩ | ⟨-, -, h⟩ := closeInstruction_cases s <;> rw [h] <;> rfl

/-- Of the host's calls, only the encoder's commands pass frames to the sink. -/
theorem hostCall_framesOk {c : HostCall} (he : s.enc.Inv) (hs : FramesOk s)
    (h : hostCall c s = .next t) : FramesOk t := by
  unfold hostCall at h
  cases c with
  | exec count => cases h; exact hs.of_eq (openExec_frames count s)
  | errorAck => cases h; exact hs
  | reset => cases h; exact hs
  | inspect what =>
    obtain ⟨r, hr⟩ | ⟨_, _, _, hr⟩ | ⟨_, _, _, hr⟩ := hostInspect_cases what s <;>
      cases hr.symm.trans h
    exact hs
  | writeData a b =>
    obtain ha | ha := Nat.lt_or_ge a s.data.len
    · cases (hostWriteData_of_inside b ha).symm.trans h
      exact hs
    · cases (hostWriteData_of_outside b ha).symm.trans h
  | encInit sink => cases h; cases sink <;> exact hs
  | appendU8 b => exact withEncoder_framesOk (appendU8_framesOk b he hs) h
  | appendBuf bytes => exact withEncoder_framesOk (appendBuf_framesOk bytes he hs) h
  | setFinal f => exact withEncoder_framesOk (f := fun s => (setFinal f s, .ok)) hs h
  | setDelimited d => exact withEncoder_framesOk (f := fun s => (setDelimited d s, .ok)) hs h
  | write => exact withEncoder_framesOk (encWrite_framesOk he hs) h
  | writeZero => exact withEncoder_framesOk (encFlush_framesOk_of_inv he hs) h
  | decInit r d p f =>
    cases h
    unfold decInit
    split <;> exact hs
  | readFrameStep got =>
    dsimp only at h
    split at h
    · exact hs.of_eq (readFrameStep_frames h)
    · cases h
  | breach b => cases h

/-- A host call may pass frames to the sink, an instruction passes none. -/
theorem step_framesOk (hinv : s.Inv) (hs : FramesOk s) (h : step s = .next t) : FramesOk t := by
  obtain ⟨-, henc, -, -, hready⟩ := hinv
  by_cases hb : s.budget = 0
  · cases hc : s.calls with
    | nil =>
      cases ((step_of_control hb).trans (hostTurn_of_none hc)).symm.trans h
      exact hs
    | cons c rest =>
      exact hostCall_framesOk (s := s.setCalls rest) henc hs ((step_of_call ⟨hb, hc⟩).symm.trans h)
  · obtain ⟨u, hu, rfl⟩ := step_running_next hb (hready hb) h
    obtain ⟨hframe, -⟩ := runInstruction_kept hu
    exact hs.of_eq ((closeInstruction_frames u).trans hframe.frames)

/-! ## The obligations -/

/-- Settles O14: every instruction is in the opcode map, whose four forms decode alike. -/
theorem decodeEncodeRoundTrip : Obligations.DecodeEncodeRoundTrip := by
  unfold Obligations.DecodeEncodeRoundTrip
  exact decode_encode

/-- Settles O10: the fetch takes the encoding's bytes, and these decode to the instruction. -/
theorem encodedInstructionRuns : Obligations.EncodedInstructionRuns := by
  unfold Obligations.EncodedInstructionRuns
  intro s i hb hr hlen hat
  have hd : decode (encode i) = .instr i [] := by simpa using decode_encode i []
  exact step_of_decoded hb hr (fetch_of_encoding hlen hat) hd

/-- Settles O11: an opcode byte beyond the program puts its immediate bytes beyond it too. -/
theorem fetchFaultKeepsIp : Obligations.FetchFaultKeepsIp := by
  unfold Obligations.FetchFaultKeepsIp
  intro s hb hr h
  exact step_of_fetch_fault hb hr (by omega)

/-- Settles O12: a reserved byte is fetched whole, then rejected; the 74 are counted. -/
theorem badOpcodeAfterCommit : Obligations.BadOpcodeAfterCommit := by
  unfold Obligations.BadOpcodeAfterCommit
  refine ⟨fun opc => raisesBadOpcode_of_reserved, ?_, fun opc rest => decode_of_not_reserved⟩
  decide

/-- Settles O13: with room for its immediate bytes, an opcode byte decodes or is rejected by its
legality alone, and the two exclude each other. -/
theorem exactlyLegalOpcodesDecode : Obligations.ExactlyLegalOpcodesDecode := by
  unfold Obligations.ExactlyLegalOpcodesDecode
  intro opc rest h
  cases hr : reservedOpcode opc with
  | false =>
    obtain ⟨i, after, hd⟩ := decode_of_not_reserved hr h
    obtain ⟨opc', imm, hbytes, hlen, henc⟩ := encode_of_decode hd
    obtain ⟨rfl, rfl⟩ := List.cons.inj hbytes
    have hlength : (encode i).length = 1 + immLength opc := by
      rw [henc, List.length_cons, hlen, Nat.add_comm]
    exact ⟨⟨fun _ => rfl, fun _ => ⟨i, after, hd, by rw [henc, List.cons_append], hlength⟩⟩,
      fun ⟨r, hrej⟩ => by simp [hd] at hrej, fun hf => by simp at hf⟩
  | true =>
    obtain ⟨r, hd⟩ := decode_of_reserved hr h
    exact ⟨⟨fun ⟨i, after, hi, _⟩ => by simp [hd] at hi, fun hf => by simp at hf⟩,
      fun _ => rfl, fun _ => ⟨r, hd⟩⟩

/-- Settles O15: the decoder's tables, read backwards, give the encoder's opcode bytes. -/
theorem decodedBytesAreTheEncoding : Obligations.DecodedBytesAreTheEncoding := by
  unfold Obligations.DecodedBytesAreTheEncoding
  intro bytes i rest h
  obtain ⟨opc, imm, hbytes, -, henc⟩ := encode_of_decode h
  rw [hbytes, henc, List.cons_append]

/-- Settles O55: only a flush passes a frame to the sink, and its header counts the bytes passed. -/
theorem emittedFramesAreWellFormed : Obligations.EmittedFramesAreWellFormed := by
  unfold Obligations.EmittedFramesAreWellFormed
  intro s t hinv hs h f hf
  have hframe : IsFrame f := step_framesOk hinv hs h f hf
  exact ⟨hframe, isFrame_length_le hframe⟩

/-- Settles O9: fetch, decode, execute, as the cycle puts them together. -/
theorem stepRunsDecodedInstruction : Obligations.StepRunsDecodedInstruction := by
  unfold Obligations.StepRunsDecodedInstruction
  exact fun s bytes i after => step_of_decoded

/-- Settles O16: the decoder run on each of the words. -/
theorem sampleEncodingsDecode : Obligations.SampleEncodingsDecode := by
  unfold Obligations.SampleEncodingsDecode
  decide

end Sys2Proof.Machine

end

/-! # The stack (41_stack.md): Push and Pop, and the stack instructions -/

section

namespace Sys2Proof.Machine

open Sys2Proof Sys2Proof.Claims

variable {s : State} {v x y : Word}

/-! ## Live values and cells -/

/-- Counted from the top, the live values are the cells from `sp` on (10_state.md R102). -/
theorem cell_of_live {l : List Word} (h : s.live = l) (i : Nat) : s.stack[s.sp + i]? = l[i]? := by
  rw [← live_getElem?, h]

theorem live_eq_nil_of_sp_eq (h : s.sp = s.stack.length) : s.live = [] :=
  List.drop_eq_nil_of_le h.ge

/-- Writing a cell with what it holds changes nothing. -/
theorem State.setCell_self {i : Nat} (h : s.stack[i]? = some v) : s.setCell i v = s := by
  obtain ⟨hi, rfl⟩ := List.getElem?_eq_some_iff.1 h
  rw [State.setCell, List.set_getElem_self]

/-- The cell a push writes becomes the top, over the values that were live (41_stack.md R400). -/
theorem live_setCell_below_top (hroom : s.sp ≠ 0) (hle : s.sp ≤ s.stack.length) :
    ((s.setSp (s.sp - 1)).setCell (s.sp - 1) v).live = v :: s.live := by
  have hlt : s.sp - 1 < s.stack.length := by omega
  have hsucc : s.sp - 1 + 1 = s.sp := by omega
  simp [State.live, List.drop_set, List.drop_eq_getElem_cons hlt, hsucc]

/-! ## The push instructions -/

/-- A push instruction is a Push of the word its shape names (41_stack.md R405, R406). -/
theorem exec_of_push_shape {i : Instr} (hi : shapeOf i = .push v) : exec i s = pushWord v s := by
  rw [exec_eq_run, hi, Shape.run]

theorem pushWord_of_full (v : Word) (h : s.sp = 0) :
    pushWord v s = .next (raise .stackFull s) := by
  rw [pushWord, push_of_full v h, Res.raised_outcome]

theorem pushWord_of_room (v : Word) (h : s.sp ≠ 0) :
    pushWord v s = .next ((s.setSp (s.sp - 1)).setCell (s.sp - 1) v) := by
  rw [pushWord, push_of_room v h, Res.ok_outcome]

/-- Immediate encodings (30_encoding.md R303), from the encoder's own form of them. -/
theorem immEncodings_of_immBytes {sel : Nat} {i8 : BitVec 8 → Instr} {i16 : BitVec 16 → Instr}
    {i32 : BitVec 32 → Instr}
    (h8 : ∀ raw, encode (i8 raw) = BitVec.ofNat 8 (0x40 + sel) :: immBytes 1 raw)
    (h16 : ∀ raw, encode (i16 raw) = BitVec.ofNat 8 (0x80 + sel) :: immBytes 2 raw)
    (h32 : ∀ raw, encode (i32 raw) = BitVec.ofNat 8 (0xC0 + sel) :: immBytes 4 raw) :
    immEncodings sel i8 i16 i32 := by
  refine ⟨fun raw => ?_, fun raw => ?_, fun raw => ?_⟩
  · simp only [h8, immBytes, wordBytes, BitVec.setWidth_setWidth_of_le _ (by decide : 8 ≤ 32),
      BitVec.setWidth_eq]
  · have hhigh : raw.setWidth 32 >>> 8 = (raw >>> 8).setWidth 32 :=
      (BitVec.setWidth_ushiftRight (by decide)).symm
    simp only [h16, immBytes, wordBytes, hhigh,
      BitVec.setWidth_setWidth_of_le _ (by decide : 8 ≤ 32)]
  · simp only [h32, immBytes, wordBytes, BitVec.setWidth_eq, ← BitVec.shiftRight_add]

/-! ## drop, dup and swap -/

theorem execDrop_of_top (h : s.stack[s.sp]? = some v) :
    execDrop s = .next (s.setSp (s.sp + 1)) := by
  rw [execDrop, pop_of_live h, Res.ok_andThen, Res.ok_outcome]

theorem execDrop_of_empty (h : s.stack[s.sp]? = none) :
    execDrop s = .next (raise .stackEmpty s) := by
  rw [execDrop, pop_of_empty h, Res.raised_andThen, Res.raised_outcome]

/-- The first push of `dup` puts back what its pop took, so `dup` is a push of the top
(41_stack.md R408). -/
theorem execDup_of_top (h : s.stack[s.sp]? = some x) : execDup s = pushWord x s := by
  have hback : push x (s.setSp (s.sp + 1)) = .ok () s :=
    (push_after_pop s s.sp x).trans (congrArg (Res.ok ()) (State.setCell_self h))
  simp only [execDup, pop_of_live h, Res.ok_andThen, hback, pushWord]

theorem execDup_of_empty (h : s.stack[s.sp]? = none) :
    execDup s = .next (raise .stackEmpty s) := by
  rw [execDup, pop_of_empty h, Res.raised_andThen, Res.raised_outcome]

/-- The two pushes of `swap` refill the two cells its pops took (41_stack.md R409). -/
theorem execSwap_of_two (hy : s.stack[s.sp]? = some y) (hx : s.stack[s.sp + 1]? = some x) :
    execSwap s = .next ((s.setCell (s.sp + 1) y).setCell s.sp x) := by
  have hpop : pop (s.setSp (s.sp + 1)) = .ok x (s.setSp (s.sp + 2)) := pop_of_live hx
  have hfirst : push y (s.setSp (s.sp + 2)) = .ok () ((s.setCell (s.sp + 1) y).setSp (s.sp + 1)) :=
    push_after_pop s (s.sp + 1) y
  have hsecond : push x ((s.setCell (s.sp + 1) y).setSp (s.sp + 1)) =
      .ok () ((s.setCell (s.sp + 1) y).setCell s.sp x) :=
    push_after_pop (s.setCell (s.sp + 1) y) s.sp x
  simp only [execSwap, pop_of_live hy, Res.ok_andThen, hpop, hfirst, hsecond, Res.ok_outcome]

theorem execSwap_of_one (hy : s.stack[s.sp]? = some y) (hx : s.stack[s.sp + 1]? = none) :
    execSwap s = .next (raise .stackEmpty (s.setSp (s.sp + 1))) := by
  have hpop : pop (s.setSp (s.sp + 1)) = .raised (raise .stackEmpty (s.setSp (s.sp + 1))) :=
    pop_of_empty hx
  rw [execSwap, pop_of_live hy, Res.ok_andThen, hpop, Res.raised_andThen, Res.raised_outcome]

theorem execSwap_of_empty (h : s.stack[s.sp]? = none) :
    execSwap s = .next (raise .stackEmpty s) := by
  rw [execSwap, pop_of_empty h, Res.raised_andThen, Res.raised_outcome]

/-! ## The obligations -/

/-- Settles O19: every push instruction is a Push of its extended immediate. -/
theorem pushImmediates : Obligations.PushImmediates := by
  unfold Obligations.PushImmediates
  refine ⟨immEncodings_of_immBytes (fun _ => rfl) (fun _ => rfl) (fun _ => rfl),
    immEncodings_of_immBytes (fun _ => rfl) (fun _ => rfl) (fun _ => rfl),
    raisesBadOpcode_of_reserved (by decide), raisesBadOpcode_of_reserved (by decide),
    fun s => ⟨fun hfull => ?_, fun hroom => ?_⟩⟩
  · have full {i : Instr} {v : Word} (hi : shapeOf i = .push v) :=
      (exec_of_push_shape hi).trans (pushWord_of_full v hfull)
    exact ⟨fun _ => full rfl, fun _ => full rfl, fun _ => full rfl, fun _ => full rfl,
      fun _ => full rfl, fun _ => full rfl⟩
  · have room {i : Instr} {v : Word} (hi : shapeOf i = .push v) :=
      (exec_of_push_shape hi).trans (pushWord_of_room v hroom)
    have zeroExtended {n : Nat} (raw : BitVec n) :
        Shape.push (raw.setWidth 32) = .push (BitVec.ofNat 32 raw.toNat) := by
      rw [BitVec.ofNat_toNat]
    have signExtended {n : Nat} (raw : BitVec n) :
        Shape.push (raw.signExtend 32) = .push (BitVec.ofInt 32 raw.toInt) := rfl
    exact ⟨fun raw => room (zeroExtended raw), fun raw => room (zeroExtended raw),
      fun raw => room (congrArg Shape.push raw.setWidth_eq),
      fun raw => room (signExtended raw), fun raw => room (signExtended raw),
      fun raw => room (congrArg Shape.push raw.signExtend_eq)⟩

/-- Settles O20: dup is a push of the top, swap writes the two top cells, and each missing value is
missed by the pop that would take it. -/
theorem dropDupSwap : Obligations.DropDupSwap := by
  unfold Obligations.DropDupSwap
  have reserved : ∀ opc ∈ [0x43, 0x83, 0xC3, 0x44, 0x84, 0xC4, 0x45, 0x85, 0xC5],
      reservedOpcode opc = true := by decide
  refine ⟨rfl, rfl, rfl, fun opc hopc => raisesBadOpcode_of_reserved (reserved opc hopc),
    fun s => ⟨fun v rest h => ?_, fun h => ?_, fun x rest h => ⟨fun hroom => ?_, fun hfull => ?_⟩,
      fun h => ?_, fun y x rest h => ?_, fun y h => ?_, fun h => ?_⟩⟩
  · exact execDrop_of_top (cell_of_live h 0)
  · exact execDrop_of_empty (cell_of_live h 0)
  · exact (execDup_of_top (cell_of_live h 0)).trans (pushWord_of_room x hroom)
  · exact (execDup_of_top (cell_of_live h 0)).trans (pushWord_of_full x hfull)
  · exact execDup_of_empty (cell_of_live h 0)
  · exact execSwap_of_two (cell_of_live h 0) (cell_of_live h 1)
  · exact execSwap_of_one (cell_of_live h 0) (cell_of_live h 1)
  · exact execSwap_of_empty (cell_of_live h 0)

/-- Settles O17: the two cases of Push, and the live values of the second. -/
theorem pushStoresBelowTheTop : Obligations.PushStoresBelowTheTop := by
  unfold Obligations.PushStoresBelowTheTop
  exact fun v s => ⟨push_of_full v, push_of_room v, fun hroom hle =>
    ⟨_, push_of_room v hroom, live_setCell_below_top hroom hle⟩⟩

/-- Settles O18: the two cases of Pop, told apart by the live values. -/
theorem popReturnsTheTop : Obligations.PopReturnsTheTop := by
  unfold Obligations.PopReturnsTheTop
  refine fun s => ⟨fun v rest h => ?_, fun h => ?_⟩
  · obtain ⟨htop, hrest⟩ := live_cons h
    exact ⟨pop_of_live htop, hrest⟩
  · exact pop_of_empty ((live_nil_iff s).1 (live_eq_nil_of_sp_eq h))

end Sys2Proof.Machine

end

/-! # The ALU (42_alu.md): the rules of the binary and the unary instructions, and their results -/

section

namespace Sys2Proof.Machine

open Sys2Proof Sys2Proof.Claims

/-! ## One operation in its four forms -/

/-- The four forms of an operation are encoded alike and run one template, over the popped operand
in form S and over the extended immediate in the others (30_encoding.md R301, R303, R310). For each
operation of the model every field holds by computation, so that `{}` proves it. -/
structure RunsAs (f : Forms) (signed : Bool) (template : Operand → Shape) : Prop where
  encodeS : encode f.s = [BitVec.ofNat 8 f.sel] := by exact rfl
  encodeI8 : ∀ raw, encode (f.i8 raw) = BitVec.ofNat 8 (0x40 + f.sel) :: immBytes 1 raw := by
    exact fun _ => rfl
  encodeI16 : ∀ raw, encode (f.i16 raw) = BitVec.ofNat 8 (0x80 + f.sel) :: immBytes 2 raw := by
    exact fun _ => rfl
  encodeI32 : ∀ raw, encode (f.i32 raw) = BitVec.ofNat 8 (0xC0 + f.sel) :: immBytes 4 raw := by
    exact fun _ => rfl
  shapeS : shapeOf f.s = template .popped := by exact rfl
  shapeImm : f.eachImm signed fun i imm => shapeOf i = template (.imm imm) := by
    exact ⟨fun _ => rfl, fun _ => rfl, fun _ => rfl⟩

namespace RunsAs

variable {f : Forms} {signed : Bool} {template : Operand → Shape}

theorem encoded (h : RunsAs f signed template) : f.encoded :=
  ⟨h.encodeS, immEncodings_of_immBytes h.encodeI8 h.encodeI16 h.encodeI32⟩

theorem exec_popped (h : RunsAs f signed template) (s : State) :
    exec f.s s = (template .popped).run s := by
  rw [exec_eq_run, h.shapeS]

/-- What holds of the template over an immediate holds of the three immediate forms. -/
theorem eachImm (h : RunsAs f signed template) {p : Instr → Word → Prop}
    (hp : ∀ i imm, (∀ s, exec i s = (template (.imm imm)).run s) → p i imm) :
    f.eachImm signed p := by
  have run {i : Instr} {imm : Word} (hi : shapeOf i = template (.imm imm)) (s : State) :
      exec i s = (template (.imm imm)).run s := by rw [exec_eq_run, hi]
  obtain ⟨h8, h16, h32⟩ := h.shapeImm
  exact ⟨fun raw => hp _ _ (run (h8 raw)), fun raw => hp _ _ (run (h16 raw)),
    fun raw => hp _ _ (run (h32 raw))⟩

end RunsAs

/-! ## The two templates as rules -/

/-- An operation that runs the binary template (42_alu.md R450, 43_compare.md R500) obeys its rule,
with any reading of its function. -/
theorem binaryRule_of_runsAs {f : Forms} {signed : Bool} {g op : Word → Word → Word}
    (h : RunsAs f signed (.binary · g)) (hg : ∀ x y, g x y = op x y) : binaryRule f signed op := by
  obtain rfl : g = op := funext₂ hg
  refine ⟨h.encoded, fun s => ⟨fun y x rest hl => ?_, fun y hl => ?_, fun hl => ?_,
    h.eachImm fun i imm hi => ⟨fun x rest hl => ?_, fun hl => ?_⟩⟩⟩
  · exact (h.exec_popped s).trans (binary_of_operands g (cell_of_live hl 0) (cell_of_live hl 1))
  · exact (h.exec_popped s).trans (binary_of_no_left g (cell_of_live hl 0) (cell_of_live hl 1))
  · exact (h.exec_popped s).trans (binary_of_no_right g (cell_of_live hl 0))
  · exact (hi s).trans (binary_of_operands g rfl (cell_of_live hl 0))
  · exact (hi s).trans (binary_of_no_left g rfl (cell_of_live hl 0))

/-- An operation that runs the unary template (42_alu.md R460) obeys its rule. Form S has the room of
the word it popped; an immediate form needs a free cell. -/
theorem unaryRule_of_runsAs {f : Forms} {g op : Word → Word}
    (h : RunsAs f false (.unary · g)) (hg : ∀ x, g x = op x) : unaryRule f op := by
  obtain rfl : g = op := funext hg
  refine ⟨h.encoded, fun s => ⟨fun x rest hl => ?_, fun hl => ?_,
    h.eachImm fun i imm hi => ⟨fun hroom => ?_, fun hfull => ?_⟩⟩⟩
  · exact (h.exec_popped s).trans (unary_of_operand g (cell_of_live hl 0) (Nat.succ_ne_zero _))
  · exact (h.exec_popped s).trans (unary_of_no_operand g (cell_of_live hl 0))
  · exact (hi s).trans (unary_of_operand g rfl hroom)
  · exact (hi s).trans (unary_of_full g rfl hfull)

/-! ## The results as integers

The bit-vector operations of the model and the spec's formulas over `u(x)` and `s(x)`. -/

section Results

variable (x y : Word)

theorem fAdd_eq : fAdd x y = BitVec.ofNat 32 (x.toNat + y.toNat) := by
  simp only [fAdd, BitVec.ofNat_add, BitVec.ofNat_toNat, BitVec.setWidth_eq]

theorem fSub_eq : fSub x y = BitVec.ofInt 32 ((x.toNat : Int) - y.toNat) := by
  apply BitVec.eq_of_toInt_eq
  rw [fSub, BitVec.toInt_sub, BitVec.toInt_ofInt, BitVec.toInt_eq_toNat_bmod,
    BitVec.toInt_eq_toNat_bmod, Int.bmod_sub_bmod,
    Int.sub_bmod_bmod]

theorem fMul_eq : fMul x y = BitVec.ofNat 32 (x.toNat * y.toNat) := by
  simp only [fMul, BitVec.ofNat_mul, BitVec.ofNat_toNat, BitVec.setWidth_eq]

/-- A left shift multiplies by a power of two, modulo 2^32 (42_alu.md R457). -/
theorem shiftLeft_eq_ofNat (n : Nat) : x <<< n = BitVec.ofNat 32 (x.toNat * 2 ^ n) := by
  apply BitVec.eq_of_toNat_eq
  rw [BitVec.toNat_shiftLeft, BitVec.toNat_ofNat, Nat.shiftLeft_eq]

/-- A logical right shift divides the unsigned number (42_alu.md R458). -/
theorem ushiftRight_eq_ofNat (n : Nat) : x >>> n = BitVec.ofNat 32 (x.toNat / 2 ^ n) := by
  have hlt : x.toNat / 2 ^ n < 2 ^ 32 := (Nat.div_le_self _ _).trans_lt x.isLt
  apply BitVec.eq_of_toNat_eq
  rw [BitVec.toNat_ushiftRight, BitVec.toNat_ofNat, Nat.shiftRight_eq_div_pow,
    Nat.mod_eq_of_lt hlt]

/-- An arithmetic right shift divides the signed number, rounding toward minus infinity
(42_alu.md R459). -/
theorem sshiftRight_eq_ofInt (n : Nat) :
    x.sshiftRight n = BitVec.ofInt 32 (x.toInt.fdiv (2 ^ n)) := by
  have hpos : (0 : Int) ≤ 2 ^ n := by positivity
  rw [BitVec.sshiftRight, Int.shiftRight_eq_div_pow, Int.fdiv_eq_ediv_of_nonneg _ hpos,
    Nat.cast_pow, Nat.cast_ofNat]

theorem fShl_eq : fShl x y =
    if 32 ≤ y.toNat then 0 else BitVec.ofNat 32 (x.toNat * 2 ^ y.toNat) := by
  rw [fShl, shiftLeft_eq_ofNat]

theorem fShrU_eq : fShrU x y =
    if 32 ≤ y.toNat then 0 else BitVec.ofNat 32 (x.toNat / 2 ^ y.toNat) := by
  rw [fShrU, ushiftRight_eq_ofNat]

theorem fShrS_eq : fShrS x y =
    if 32 ≤ y.toNat then (if x.toInt < 0 then 0xFFFFFFFF else 0)
    else BitVec.ofInt 32 (x.toInt.fdiv (2 ^ y.toNat)) := by
  rw [fShrS, sshiftRight_eq_ofInt]

theorem gNot_eq : gNot x = BitVec.ofNat 32 (2 ^ 32 - 1 - x.toNat) := by
  have hlt : 2 ^ 32 - 1 - x.toNat < 2 ^ 32 := by omega
  apply BitVec.eq_of_toNat_eq
  rw [gNot, BitVec.toNat_not, BitVec.toNat_ofNat, Nat.mod_eq_of_lt hlt]

theorem gNeg_eq : gNeg x = BitVec.ofInt 32 (0 - (x.toNat : Int)) := by
  rw [gNeg, ← BitVec.zero_sub]
  exact fSub_eq 0 x

theorem gLnot_eq : gLnot x = if x.toNat = 0 then 1 else 0 := by
  have hzero : x = 0 ↔ x.toNat = 0 := BitVec.toNat_inj.symm
  simp only [gLnot, hzero]

end Results

/-! ## The obligations -/

/-- Settles O21: the binary template, with sums, differences and products taken modulo 2^32. -/
theorem arithmeticWraps : Obligations.ArithmeticWraps := by
  unfold Obligations.ArithmeticWraps
  exact ⟨binaryRule_of_runsAs {} fAdd_eq, binaryRule_of_runsAs {} fSub_eq,
    binaryRule_of_runsAs {} fMul_eq⟩

/-- Settles O22: the binary template, and the library's bit law of each operation. -/
theorem bitwiseOperations : Obligations.BitwiseOperations := by
  unfold Obligations.BitwiseOperations
  exact ⟨binaryRule_of_runsAs (g := fAnd) {} fun _ _ => rfl,
    binaryRule_of_runsAs (g := fOr) {} fun _ _ => rfl,
    binaryRule_of_runsAs (g := fXor) {} fun _ _ => rfl,
    fun _ _ _ => ⟨BitVec.getLsbD_and, BitVec.getLsbD_or, BitVec.getLsbD_xor⟩⟩

/-- Settles O23: the binary template, with the shifts by less than 32 as multiplication and division
by a power of two. -/
theorem shiftsByTheWholeAmount : Obligations.ShiftsByTheWholeAmount := by
  unfold Obligations.ShiftsByTheWholeAmount
  exact ⟨binaryRule_of_runsAs {} fShl_eq, binaryRule_of_runsAs {} fShrU_eq,
    binaryRule_of_runsAs {} fShrS_eq⟩

/-- Settles O24: the unary template, with complement, negation and the test for zero on unsigned
numbers. -/
theorem unaryOperations : Obligations.UnaryOperations := by
  unfold Obligations.UnaryOperations
  exact ⟨unaryRule_of_runsAs {} gNot_eq, unaryRule_of_runsAs {} gNeg_eq,
    unaryRule_of_runsAs {} gLnot_eq⟩

end Sys2Proof.Machine

end

/-! # The comparisons (43_compare.md): the relations as relations of numbers, and their rules -/

section

namespace Sys2Proof.Machine

open Sys2Proof Sys2Proof.Claims

/-! ## The results as relations of numbers

The tests of the model on words and the spec's relations over `u(x)` and `s(x)`. -/

section Results

/-- A test that decides a relation gives the relation's result word (43_compare.md R500). -/
theorem truthWord_eq_oneOrZero {b : Bool} {p : Prop} [Decidable p] (h : b = true ↔ p) :
    truthWord b = oneOrZero p :=
  if_congr h rfl rfl

variable (x y : Word)

theorem relEq_eq : relEq x y = oneOrZero (x.toNat = y.toNat) :=
  truthWord_eq_oneOrZero (beq_iff_eq.trans BitVec.toNat_inj.symm)

theorem relNe_eq : relNe x y = oneOrZero (x.toNat ≠ y.toNat) :=
  truthWord_eq_oneOrZero (bne_iff_ne.trans BitVec.toNat_ne_iff_ne.symm)

theorem relLtU_eq : relLtU x y = oneOrZero (x.toNat < y.toNat) :=
  truthWord_eq_oneOrZero BitVec.ult_iff_toNat_lt

theorem relLeU_eq : relLeU x y = oneOrZero (x.toNat ≤ y.toNat) :=
  truthWord_eq_oneOrZero BitVec.ule_iff_toNat_le

/-- `gt-ui` is `lt-ui` with the operands exchanged. -/
theorem relGtU_eq : relGtU x y = oneOrZero (x.toNat > y.toNat) :=
  relLtU_eq y x

/-- `ge-ui` is `le-ui` with the operands exchanged. -/
theorem relGeU_eq : relGeU x y = oneOrZero (x.toNat ≥ y.toNat) :=
  relLeU_eq y x

theorem relLtS_eq : relLtS x y = oneOrZero (x.toInt < y.toInt) :=
  truthWord_eq_oneOrZero BitVec.slt_iff_toInt_lt

theorem relLeS_eq : relLeS x y = oneOrZero (x.toInt ≤ y.toInt) :=
  truthWord_eq_oneOrZero BitVec.sle_iff_toInt_le

/-- `gt-si` is `lt-si` with the operands exchanged. -/
theorem relGtS_eq : relGtS x y = oneOrZero (x.toInt > y.toInt) :=
  relLtS_eq y x

/-- `ge-si` is `le-si` with the operands exchanged. -/
theorem relGeS_eq : relGeS x y = oneOrZero (x.toInt ≥ y.toInt) :=
  relLeS_eq y x

end Results

/-! ## The obligations -/

/-- Settles O25: the binary template over zero-extended immediates, with the tests on words read as
relations of unsigned numbers. -/
theorem unsignedComparisons : Obligations.UnsignedComparisons := by
  unfold Obligations.UnsignedComparisons
  exact ⟨binaryRule_of_runsAs {} relEq_eq, binaryRule_of_runsAs {} relNe_eq,
    binaryRule_of_runsAs {} relLtU_eq, binaryRule_of_runsAs {} relLeU_eq,
    binaryRule_of_runsAs {} relGtU_eq, binaryRule_of_runsAs {} relGeU_eq⟩

/-- Settles O26: the binary template over sign-extended immediates, with the tests on words read as
relations of signed numbers. -/
theorem signedComparisons : Obligations.SignedComparisons := by
  unfold Obligations.SignedComparisons
  exact ⟨binaryRule_of_runsAs {} relLtS_eq, binaryRule_of_runsAs {} relLeS_eq,
    binaryRule_of_runsAs {} relGtS_eq, binaryRule_of_runsAs {} relGeS_eq⟩

end Sys2Proof.Machine

end

/-! # Loads and stores (44_load_store.md): the rules of the two templates, and the extensions -/

section

namespace Sys2Proof.Machine

open Sys2Proof Sys2Proof.Claims

variable {s : State} {o : Operand} {w : Width} {a v : Word}

/-! ## What a load pushes -/

/-- The zero-extending loads push the number itself: `MemRead` has zero-extended it
(20_memory.md R207). -/
theorem extZero_ofNat (m : Nat) : extZero (BitVec.ofNat 32 m) = BitVec.ofNat 32 m := rfl

theorem extSign8_ofNat (m : Nat) : extSign8 (BitVec.ofNat 32 m) = signExtended 8 m := by
  rw [extSign8, BitVec.setWidth_ofNat_of_le (by decide), BitVec.signExtend, signExtended]

theorem extSign16_ofNat (m : Nat) : extSign16 (BitVec.ofNat 32 m) = signExtended 16 m := by
  rw [extSign16, BitVec.setWidth_ofNat_of_le (by decide), BitVec.signExtend, signExtended]

/-- An operation that runs the load template (44_load_store.md R550) obeys its rule, with any
reading of its extension. Form S has the room of the address it popped; an immediate form needs a
free cell, but looks for it only after the bounds check. -/
theorem loadRule_of_runsAs {f : Forms} {g : Word → Word} {ext : Nat → Word} (w : Width)
    (h : RunsAs f false (.load · w g)) (hg : ∀ m, g (BitVec.ofNat 32 m) = ext m) :
    loadRule f (widthBytes w) ext := by
  have pushed (s : State) (a : Word) : g (leWord (bytesAt s.data a.toNat (widthBytes w))) =
      ext (littleEndian s.data a.toNat (widthBytes w)) := by
    rw [leWord_bytesAt _ _ _ (widthBytes_le w), hg]
  refine ⟨h.encoded, fun s => ⟨fun a rest hl => ⟨fun hin => ?_, fun hout => ?_⟩, fun hl => ?_,
    h.eachImm fun i a hi => ⟨fun hin hroom => ?_, fun hin hfull => ?_, fun hout => ?_⟩⟩⟩
  · rw [← pushed]
    exact (h.exec_popped s).trans
      (load_of_inBounds w g (cell_of_live hl 0) hin (Nat.succ_ne_zero _))
  · exact (h.exec_popped s).trans
      (load_of_not_inBounds w g (cell_of_live hl 0) (Nat.not_le.2 hout))
  · exact (h.exec_popped s).trans (load_of_no_address w g (cell_of_live hl 0))
  · rw [← pushed]
    exact (hi s).trans (load_of_inBounds w g rfl hin hroom)
  · exact (hi s).trans (load_of_full w g rfl hin hfull)
  · exact (hi s).trans (load_of_not_inBounds w g rfl (Nat.not_le.2 hout))

/-! ## The two store templates as one -/

/-- The shape of a store that discards its value or pushes it back (44_load_store.md R556). -/
def Shape.storing (discard : Bool) (w : Width) (o : Operand) : Shape :=
  if discard then .storeDiscard o w else .store o w

variable {discard : Bool}

/-- In bounds the bytes are stored, and the push-back puts the popped word back where it was: the
stack differs by `sp` alone, by one cell more where the word is discarded. -/
theorem run_storing_of_inBounds (hwf : s.data.wf = true) (ha : o.value s = some a)
    (hv : s.stack[s.sp + o.slots]? = some v) (hb : InBounds a (widthBytes w) s.data.len) :
    ∃ d, Stored s.data d a.toNat (widthBytes w) v ∧ (Shape.storing discard w o).run s =
      .next ((s.setData d).setSp (s.sp + (o.slots + if discard then 1 else 0))) := by
  refine ⟨_, stored_writeBytes v hwf hb, ?_⟩
  cases discard with
  | true => exact storeDiscard_of_inBounds w ha hv hb
  | false => exact (store_of_inBounds w ha hv hb).trans (congrArg _ (State.setCell_self hv))

/-- Out of bounds both operands stay popped, discarding or not. -/
theorem run_storing_of_not_inBounds (ha : o.value s = some a)
    (hv : s.stack[s.sp + o.slots]? = some v) (hb : ¬ InBounds a (widthBytes w) s.data.len) :
    (Shape.storing discard w o).run s =
      .next (raise .dataAddressOutOfBounds (s.setSp (s.sp + o.slots + 1))) := by
  cases discard with
  | true => exact (store_of_not_inBounds w ha hv hb).2
  | false => exact (store_of_not_inBounds w ha hv hb).1

theorem run_storing_of_no_value (ha : o.value s = some a)
    (hv : s.stack[s.sp + o.slots]? = none) :
    (Shape.storing discard w o).run s = .next (raise .stackEmpty (s.setSp (s.sp + o.slots))) := by
  cases discard with
  | true => exact (store_of_no_value w ha hv).2
  | false => exact (store_of_no_value w ha hv).1

theorem run_storing_of_no_address (ha : o.value s = none) :
    (Shape.storing discard w o).run s = .next (raise .stackEmpty s) := by
  cases discard with
  | true => exact (store_of_no_address w ha).2
  | false => exact (store_of_no_address w ha).1

/-- The cells a store in form S gives up in the end: the address, and the value where it is
discarded. -/
theorem storing_popped_slots (discard : Bool) :
    Operand.popped.slots + (if discard then 1 else 0) = if discard then 2 else 1 := by
  cases discard <;> rfl

/-- An operation that runs a store template (44_load_store.md R556) obeys its rule. -/
theorem storeRule_of_runsAs {f : Forms} (w : Width)
    (h : RunsAs f false (Shape.storing discard w)) : storeRule f (widthBytes w) discard := by
  refine ⟨h.encoded, fun s hwf => ⟨fun a v rest hl => ⟨fun hin => ?_, fun hout => ?_⟩,
    fun a hl => ?_, fun hl => ?_, h.eachImm fun i a hi =>
      ⟨fun v rest hl => ⟨fun hin => ?_, fun hout => ?_⟩, fun hl => ?_⟩⟩⟩
  · rw [h.exec_popped, ← storing_popped_slots]
    exact run_storing_of_inBounds hwf (cell_of_live hl 0) (cell_of_live hl 1) hin
  · exact (h.exec_popped s).trans
      (run_storing_of_not_inBounds (cell_of_live hl 0) (cell_of_live hl 1) (Nat.not_le.2 hout))
  · exact (h.exec_popped s).trans
      (run_storing_of_no_value (cell_of_live hl 0) (cell_of_live hl 1))
  · exact (h.exec_popped s).trans (run_storing_of_no_address (cell_of_live hl 0))
  · rw [hi, ← Nat.zero_add (if discard then 1 else 0)]
    exact run_storing_of_inBounds hwf rfl (cell_of_live hl 0) hin
  · exact (hi s).trans (run_storing_of_not_inBounds rfl (cell_of_live hl 0) (Nat.not_le.2 hout))
  · exact (hi s).trans (run_storing_of_no_value rfl (cell_of_live hl 0))

/-! ## The obligations -/

/-- Settles O28: the load template at the three widths, with the pushed word read as the extended
little-endian number. -/
theorem loadsReadDataMemory : Obligations.LoadsReadDataMemory := by
  unfold Obligations.LoadsReadDataMemory
  exact ⟨loadRule_of_runsAs .byte {} extZero_ofNat, loadRule_of_runsAs .half {} extZero_ofNat,
    loadRule_of_runsAs .word {} extZero_ofNat, loadRule_of_runsAs .byte {} extSign8_ofNat,
    loadRule_of_runsAs .half {} extSign16_ofNat⟩

/-- Settles O29: the store templates at the three widths, with the value pushed back or discarded. -/
theorem storesWriteDataMemory : Obligations.StoresWriteDataMemory := by
  unfold Obligations.StoresWriteDataMemory
  exact ⟨storeRule_of_runsAs .byte {}, storeRule_of_runsAs .half {}, storeRule_of_runsAs .word {},
    storeRule_of_runsAs .byte {}, storeRule_of_runsAs .half {}, storeRule_of_runsAs .word {}⟩

end Sys2Proof.Machine

end

/-! # Block copies (45_block_copy.md): the rule of the two templates, and what an overlapping copy
leaves -/

section

namespace Sys2Proof.Machine

open Sys2Proof Sys2Proof.Claims

/-! ## The copying loops, byte by byte -/

/-- A write of a byte that exists updates the function from addresses to bytes. -/
theorem Buffer.get_set_eq_update {b : Buffer} {a : Nat} (v : Byte) (hb : b.wf = true)
    (ha : a < b.len) : Buffer.get (Buffer.set b a v) = Function.update (Buffer.get b) a v := by
  funext c
  rw [Buffer.get_set v hb ha, Function.update_apply]

/-- The loop on a buffer is the loop on its bytes, iteration by iteration (45_block_copy.md R600). -/
theorem get_copyWithin {b : Buffer} {d s n : Nat} (hb : b.wf = true) (h : d + n ≤ b.len) :
    Buffer.get (copyWithin b d s n) = forwardCopy (Buffer.get b) d s n := by
  induction n generalizing b d s with
  | zero => rfl
  | succ n ih =>
    have hroom : d + 1 + n ≤ (Buffer.set b d (Buffer.get b s)).len := by
      rw [Buffer.set_len]; omega
    rw [copyWithin, forwardCopy, ih (Buffer.wf_set _ _ hb) hroom,
      Buffer.get_set_eq_update _ hb (by omega)]

/-- The source's bytes in the destination, the old bytes elsewhere (45_block_copy.md R601). -/
theorem get_copyFrom (src : Buffer) {dst : Buffer} {d s n : Nat} (hb : dst.wf = true)
    (h : d + n ≤ dst.len) (c : Nat) : Buffer.get (copyFrom src dst d s n) c =
      if d ≤ c ∧ c < d + n then Buffer.get src (s + (c - d)) else Buffer.get dst c := by
  split
  · next hc =>
    obtain ⟨i, rfl⟩ := Nat.exists_eq_add_of_le hc.1
    rw [get_copyFrom_inside src hb h (by omega), Nat.add_sub_cancel_left]
  · next hc => exact get_copyFrom_outside src dst (by omega)

/-! ## The forward loop where it overlaps itself -/

section ForwardCopy

variable (m : Nat → Byte) {d s n : Nat}

theorem forwardCopy_outside {b : Nat} (h : b < d ∨ d + n ≤ b) : forwardCopy m d s n b = m b := by
  induction n generalizing m d s with
  | zero => rfl
  | succ n ih => rw [forwardCopy, ih _ (by omega), Function.update_of_ne (by omega)]

/-- No later iteration writes the byte the first one wrote. -/
theorem forwardCopy_first : forwardCopy m d s (n + 1) d = m s := by
  rw [forwardCopy, forwardCopy_outside _ (by omega), Function.update_self]

/-- Downward, no iteration writes a byte that a later one reads (45_block_copy.md R602). -/
theorem forwardCopy_downward (h : d ≤ s) {j : Nat} (hj : j < n) :
    forwardCopy m d s n (d + j) = m (s + j) := by
  induction n generalizing m d s j with
  | zero => omega
  | succ n ih =>
    cases j with
    | zero => exact forwardCopy_first m
    | succ j =>
      rw [forwardCopy, show d + (j + 1) = d + 1 + j by omega, ih _ (by omega) (by omega),
        Function.update_of_ne (by omega)]
      congr 1; omega

/-- Upward by `p`, each iteration feeds the one `p` later, so the first `p` source bytes repeat
(45_block_copy.md R602). In the induction the byte just written stands where the rest of the loop
finds the last byte of its pattern. -/
theorem forwardCopy_upward {p : Nat} (hp : 0 < p) {j : Nat} (hj : j < n) :
    forwardCopy m (s + p) s n (s + p + j) = m (s + j % p) := by
  induction n generalizing m s j with
  | zero => omega
  | succ n ih =>
    cases j with
    | zero => rw [Nat.zero_mod]; exact forwardCopy_first m
    | succ j =>
      have hrest := ih (Function.update m (s + p) (m s)) (s := s + 1) (j := j) (by omega)
      rw [forwardCopy, show s + p + 1 = s + 1 + p by omega,
        show s + p + (j + 1) = s + 1 + p + j by omega, hrest]
      by_cases hlast : j % p + 1 = p
      · have hmod : (j + 1) % p = 0 := by rw [← Nat.mod_add_mod, hlast, Nat.mod_self]
        rw [hmod, show s + 1 + j % p = s + p by omega, Function.update_self, Nat.add_zero]
      · have hlt := Nat.mod_lt j hp
        have hmod : (j + 1) % p = j % p + 1 := by
          rw [← Nat.mod_add_mod, Nat.mod_eq_of_lt (by omega)]
        rw [hmod, Function.update_of_ne (by omega)]
        congr 1; omega

end ForwardCopy

/-! ## The two templates as one rule -/

/-- What the block copy templates have in common (45_block_copy.md R600, R601): three operands, the
source checked before the destination and both before the copy, `copied` the data memory after it. -/
structure CopiesBlock (template : Operand → Shape) (srcLen : State → Nat) (srcFault : ErrCode)
    (copied : State → Nat → Nat → Nat → Buffer) : Prop where
  of_operands {o : Operand} {s : State} {len src dst : Word} (hl : o.value s = some len)
    (hs : s.stack[s.sp + o.slots]? = some src) (hd : s.stack[s.sp + o.slots + 1]? = some dst) :
    (template o).run s =
      if ¬ InBounds src len.toNat (srcLen s) then
        .next (raise srcFault (s.setSp (s.sp + o.slots + 2)))
      else if ¬ InBounds dst len.toNat s.data.len then
        .next (raise .dataAddressOutOfBounds (s.setSp (s.sp + o.slots + 2)))
      else .next ((s.setData (copied s dst.toNat src.toNat len.toNat)).setSp (s.sp + o.slots + 2))
  of_no_dst {o : Operand} {s : State} {len src : Word} (hl : o.value s = some len)
    (hs : s.stack[s.sp + o.slots]? = some src) (hd : s.stack[s.sp + o.slots + 1]? = none) :
    (template o).run s = .next (raise .stackEmpty (s.setSp (s.sp + o.slots + 1)))
  of_no_src {o : Operand} {s : State} {len : Word} (hl : o.value s = some len)
    (hs : s.stack[s.sp + o.slots]? = none) :
    (template o).run s = .next (raise .stackEmpty (s.setSp (s.sp + o.slots)))
  of_no_len {o : Operand} {s : State} (hl : o.value s = none) :
    (template o).run s = .next (raise .stackEmpty s)

theorem dataCopy_copiesBlock : CopiesBlock .dataCopy (fun s => s.data.len) .dataAddressOutOfBounds
    (fun s dst src n => copyWithin s.data dst src n) where
  of_operands hl hs hd := by
    rw [Shape.run, dataCopy_of_operands hl hs hd, ite_or]
  of_no_dst hl hs hd := (copy_of_no_dst hl hs hd).1
  of_no_src hl hs := (copy_of_no_src hl hs).1
  of_no_len hl := (copy_of_no_len hl).1

theorem programCopy_copiesBlock :
    CopiesBlock .programCopy (fun s => s.program.len) .programAddressOutOfBounds
      (fun s dst src n => copyFrom s.program s.data dst src n) where
  of_operands := programCopy_of_operands
  of_no_dst hl hs hd := (copy_of_no_dst hl hs hd).2
  of_no_src hl hs := (copy_of_no_src hl hs).2
  of_no_len hl := (copy_of_no_len hl).2

/-- `d` is the data memory after its bytes became `after`, in canonical form. -/
def HoldsBytes (old d : Buffer) (after : Nat → Byte) : Prop :=
  d.len = old.len ∧ d.wf = true ∧ ∀ b, Buffer.get d b = after b

section CopyRule

variable {template : Operand → Shape} {srcLen : State → Nat} {srcFault : ErrCode}
  {copied : State → Nat → Nat → Nat → Buffer}

/-- The three operands on hand, whichever way the length comes. -/
theorem CopiesBlock.copyEffect (h : CopiesBlock template srcLen srcFault copied) {o : Operand}
    {i : Instr} {s : State} {len src dst : Word} {after : Nat → Byte}
    (hi : exec i s = (template o).run s) (hl : o.value s = some len)
    (hs : s.stack[s.sp + o.slots]? = some src) (hd : s.stack[s.sp + o.slots + 1]? = some dst)
    (hafter : dst.toNat + len.toNat ≤ s.data.len →
      HoldsBytes s.data (copied s dst.toNat src.toNat len.toNat) after) :
    copyEffect i s (o.slots + 2) (srcLen s) srcFault after len src dst := by
  have hrun := hi.trans (h.of_operands hl hs hd)
  refine ⟨fun hsrc hdst => ?_, fun hsrc => ?_, fun hsrc hdst => ?_⟩
  · obtain ⟨hlen, hwf, hget⟩ := hafter hdst
    rw [if_neg (not_not_intro hsrc), if_neg (not_not_intro hdst)] at hrun
    exact ⟨_, hlen, hwf, hget, hrun⟩
  · rw [if_pos (Nat.not_le.2 hsrc)] at hrun
    exact hrun
  · rw [if_neg (not_not_intro hsrc), if_pos (Nat.not_le.2 hdst)] at hrun
    exact hrun

/-- An operation that runs a block copy template obeys its rule, with any reading of the bytes the
template leaves. -/
theorem copyRule_of_runsAs {f : Forms} {after : State → Nat → Nat → Nat → Nat → Byte}
    (h : RunsAs f false template) (hc : CopiesBlock template srcLen srcFault copied)
    (hafter : ∀ s dst src n, s.data.wf = true → dst + n ≤ s.data.len →
      HoldsBytes s.data (copied s dst src n) (after s dst src n)) :
    copyRule f srcLen srcFault after := by
  refine ⟨h.encoded, fun s hwf => ⟨fun len src dst rest hl => ?_, fun len src hl => ?_,
    fun len hl => ?_, fun hl => ?_, h.eachImm fun i len hi =>
      ⟨fun src dst rest hl => ?_, fun src hl => ?_, fun hl => ?_⟩⟩⟩
  · exact hc.copyEffect (h.exec_popped s) (cell_of_live hl 0) (cell_of_live hl 1)
      (cell_of_live hl 2) (hafter s _ _ _ hwf)
  · exact (h.exec_popped s).trans
      (hc.of_no_dst (cell_of_live hl 0) (cell_of_live hl 1) (cell_of_live hl 2))
  · exact (h.exec_popped s).trans (hc.of_no_src (cell_of_live hl 0) (cell_of_live hl 1))
  · exact (h.exec_popped s).trans (hc.of_no_len (cell_of_live hl 0))
  · exact hc.copyEffect (hi s) rfl (cell_of_live hl 0) (cell_of_live hl 1) (hafter s _ _ _ hwf)
  · exact (hi s).trans (hc.of_no_dst rfl (cell_of_live hl 0) (cell_of_live hl 1))
  · exact (hi s).trans (hc.of_no_src rfl (cell_of_live hl 0))

end CopyRule

/-- Within bounds, the forward copy overlaps as the spec says (45_block_copy.md R602). -/
theorem overlapEffect_of_copyEffect {i : Instr} {s : State} {k : Nat} {srcFault : ErrCode}
    {len src dst : Word} (h : copyEffect i s k s.data.len srcFault
      (forwardCopy (Buffer.get s.data) dst.toNat src.toNat len.toNat) len src dst)
    (hsrc : src.toNat + len.toNat ≤ s.data.len) (hdst : dst.toNat + len.toNat ≤ s.data.len) :
    overlapEffect i s len src dst := by
  obtain ⟨hcopied, -, -⟩ := h
  obtain ⟨d, -, -, hget, hexec⟩ := hcopied hsrc hdst
  refine ⟨_, hexec, fun b hb => ?_, fun hdown j hj => ?_, fun hup j hj => ?_⟩
  · exact (hget b).trans (forwardCopy_outside _ hb)
  · exact (hget _).trans (forwardCopy_downward _ hdown hj)
  · have hupward := forwardCopy_upward (Buffer.get s.data) (s := src.toNat)
      (Nat.sub_pos_of_lt hup) hj
    rw [Nat.add_sub_cancel' hup.le] at hupward
    exact (hget _).trans hupward

/-- What follows, instruction by instruction, from a fact about the immediate forms. -/
theorem eachImm_imp {f : Forms} {signed : Bool} {p q : Instr → Word → Prop}
    (h : f.eachImm signed p) (hpq : ∀ i imm, p i imm → q i imm) : f.eachImm signed q := by
  obtain ⟨h8, h16, h32⟩ := h
  exact ⟨fun raw => hpq _ _ (h8 raw), fun raw => hpq _ _ (h16 raw), fun raw => hpq _ _ (h32 raw)⟩

/-! ## The obligations -/

/-- Settles O30: the copy template within data memory, whose loop is the forward loop on bytes. -/
theorem dcopyCopiesForward : Obligations.DcopyCopiesForward := by
  unfold Obligations.DcopyCopiesForward
  exact copyRule_of_runsAs {} dataCopy_copiesBlock fun s dst src n hwf hdst =>
    ⟨copyWithin_len _ _ _ _, wf_copyWithin _ _ _ hwf, congrFun (get_copyWithin hwf hdst)⟩

/-- Settles O31: the copy template from program memory, whose source the copy does not write. -/
theorem pcopyCopiesProgramBytes : Obligations.PcopyCopiesProgramBytes := by
  unfold Obligations.PcopyCopiesProgramBytes
  exact copyRule_of_runsAs {} programCopy_copiesBlock fun s dst src n hwf hdst =>
    ⟨copyFrom_len _ _ _ _ _, wf_copyFrom _ _ _ _ hwf, get_copyFrom s.program hwf hdst⟩

/-- Settles O32: the rule of dcopy, with the forward loop read off downward and upward. -/
theorem overlappingDcopy : Obligations.OverlappingDcopy := by
  unfold Obligations.OverlappingDcopy
  obtain ⟨-, hrule⟩ := dcopyCopiesForward
  intro s hwf
  obtain ⟨hpopped, -, -, -, himm⟩ := hrule s hwf
  refine ⟨fun len src dst rest hl => overlapEffect_of_copyEffect (hpopped len src dst rest hl),
    eachImm_imp himm fun i len h src dst rest hl => ?_⟩
  obtain ⟨hcopy, -, -⟩ := h
  exact overlapEffect_of_copyEffect (hcopy src dst rest hl)

end Sys2Proof.Machine

end

/-! # Control flow (46_control_flow.md): the rules of the transfers, and coming back from a call -/

section

namespace Sys2Proof.Machine

open Sys2Proof Sys2Proof.Claims

variable {s : State} {template : Operand → Shape} {g target : Word → Word → Word}

/-! ## Targets and tests -/

/-- A relative target is `(ip + s(delta)) mod 2^32` (46_control_flow.md R655). -/
theorem add_eq_ofInt_toInt (ip delta : Word) :
    ip + delta = BitVec.ofInt 32 (ip.toNat + delta.toInt) := by
  rw [BitVec.ofInt_add, BitVec.ofInt_natCast, BitVec.ofNat_toNat, BitVec.setWidth_eq,
    BitVec.ofInt_toInt]

theorem isNonzero_iff (c : Word) : isNonzero c = true ↔ c.toNat ≠ 0 :=
  bne_iff_ne.trans BitVec.toNat_ne_iff_ne.symm

theorem isZero_iff (c : Word) : isZero c = true ↔ c.toNat = 0 :=
  beq_iff_eq.trans BitVec.toNat_inj.symm

/-- A jump that may not be taken is a write of `ip` that may write what was there. -/
theorem ite_setIp {b : Bool} {p : Prop} [Decidable p] (h : b = true ↔ p) (s : State) (v : Word) :
    (if b then s.setIp v else s) = s.setIp (if p then v else s.ip) := by
  by_cases hp : p
  · rw [if_pos (h.2 hp), if_pos hp]
  · rw [if_neg (mt h.1 hp), if_neg hp]
    rfl

/-! ## The jumps that push `ip` -/

/-- What `call` and `jump-rel` have in common (46_control_flow.md R651, R655): the operand is taken
first, then `ip` is pushed, and the jump goes to `g ip operand`. -/
structure PushesIp (template : Operand → Shape) (g : Word → Word → Word) : Prop where
  of_operand {o : Operand} {s : State} {t : Word} (ht : o.value s = some t) :
    (template o).run s =
      if s.sp + o.slots = 0 then .next (raise .stackFull (s.setSp (s.sp + o.slots)))
      else .next (((s.setSp (s.sp + o.slots - 1)).setCell (s.sp + o.slots - 1) s.ip).setIp
        (g s.ip t))
  of_no_operand {o : Operand} {s : State} (ht : o.value s = none) :
    (template o).run s = .next (raise .stackEmpty s)

theorem callTo_pushesIp : PushesIp .callTo (fun _ t => t) where
  of_operand := callTo_of_target
  of_no_operand ht := (transfer_of_no_target ht).1

theorem jumpBy_pushesIp : PushesIp .jumpBy (fun ip delta => ip + delta) where
  of_operand := jumpBy_of_delta
  of_no_operand ht := (transfer_of_no_target ht).2.2

/-- An operation that runs such a template obeys the rule, with any reading of its target. Form S
has the room of the word it popped; an immediate form needs a free cell. -/
theorem linkingRule_of_runsAs {f : Forms} {signed : Bool} (h : RunsAs f signed template)
    (hp : PushesIp template g) (hg : ∀ ip t, g ip t = target ip t) :
    linkingRule f signed target := by
  obtain rfl : g = target := funext₂ hg
  refine ⟨h.encoded, fun s => ⟨fun t rest hl => ?_, fun hl => ?_,
    h.eachImm fun i t hi => ⟨fun hroom => ?_, fun hfull => ?_⟩⟩⟩
  · exact (h.exec_popped s).trans
      ((hp.of_operand (o := .popped) (cell_of_live hl 0)).trans (if_neg (Nat.succ_ne_zero _)))
  · exact (h.exec_popped s).trans (hp.of_no_operand (cell_of_live hl 0))
  · exact (hi s).trans ((hp.of_operand rfl).trans (if_neg hroom))
  · exact (hi s).trans ((hp.of_operand rfl).trans (if_pos hfull))

/-! ## The conditional jumps -/

/-- What the conditional jumps have in common (46_control_flow.md R653, R654, R656, R657): the
condition is popped, then the operand is taken, and only then is the condition tested. -/
structure JumpsWhen (template : Operand → Shape) (test : Word → Bool) (g : Word → Word → Word) :
    Prop where
  of_operands {o : Operand} {s : State} {c t : Word} (hc : s.stack[s.sp]? = some c)
    (ht : o.value (s.setSp (s.sp + 1)) = some t) :
    (template o).run s = .next (if test c then (s.setSp (s.sp + 1 + o.slots)).setIp (g s.ip t)
      else s.setSp (s.sp + 1 + o.slots))
  of_no_target {o : Operand} {s : State} {c : Word} (hc : s.stack[s.sp]? = some c)
    (ht : o.value (s.setSp (s.sp + 1)) = none) :
    (template o).run s = .next (raise .stackEmpty (s.setSp (s.sp + 1)))
  of_no_condition {o : Operand} {s : State} (hc : s.stack[s.sp]? = none) :
    (template o).run s = .next (raise .stackEmpty s)

variable {test : Word → Bool}

theorem jumpToWhen_jumpsWhen : JumpsWhen (.jumpToWhen · test) test (fun _ t => t) where
  of_operands hc ht := (jumpWhen_of_operands test hc ht).1
  of_no_target hc ht := (jumpWhen_of_no_target test hc ht).1
  of_no_condition hc := (jumpWhen_of_no_condition test hc).1

theorem jumpByWhen_jumpsWhen :
    JumpsWhen (.jumpByWhen · test) test (fun ip delta => ip + delta) where
  of_operands hc ht := (jumpWhen_of_operands test hc ht).2
  of_no_target hc ht := (jumpWhen_of_no_target test hc ht).2
  of_no_condition hc := (jumpWhen_of_no_condition test hc).2

/-- An operation that runs such a template obeys the rule, with any reading of its test and of its
target. -/
theorem conditionalRule_of_runsAs {f : Forms} {signed : Bool} {taken : Word → Prop}
    [DecidablePred taken] (h : RunsAs f signed template) (hj : JumpsWhen template test g)
    (htest : ∀ c, test c = true ↔ taken c) (hg : ∀ ip t, g ip t = target ip t) :
    conditionalRule f signed taken target := by
  obtain rfl : g = target := funext₂ hg
  refine ⟨h.encoded, fun s => ⟨fun c t rest hl => ?_, fun c hl => ?_, fun hl => ?_,
    h.eachImm fun i t hi => ⟨fun c rest hl => ?_, fun hl => ?_⟩⟩⟩
  · have hrun := hj.of_operands (o := .popped) (cell_of_live hl 0) (cell_of_live hl 1)
    exact (h.exec_popped s).trans (hrun.trans (congrArg _ (ite_setIp (htest c) _ _)))
  · exact (h.exec_popped s).trans (hj.of_no_target (cell_of_live hl 0) (cell_of_live hl 1))
  · exact (h.exec_popped s).trans (hj.of_no_condition (cell_of_live hl 0))
  · have hrun := hj.of_operands (o := .imm t) (cell_of_live hl 0) rfl
    exact (hi s).trans (hrun.trans (congrArg _ (ite_setIp (htest c) _ _)))
  · exact (hi s).trans (hj.of_no_condition (cell_of_live hl 0))

/-! ## The obligations about single jumps -/

/-- Settles O33: the two templates that push `ip`, with the relative target read as a signed sum. -/
theorem linkingJumps : Obligations.LinkingJumps := by
  unfold Obligations.LinkingJumps
  exact ⟨linkingRule_of_runsAs {} callTo_pushesIp fun _ _ => rfl,
    linkingRule_of_runsAs {} jumpBy_pushesIp add_eq_ofInt_toInt⟩

/-- Settles O34: the absolute jump with and without a target on hand. -/
theorem absoluteJump : Obligations.AbsoluteJump := by
  unfold Obligations.AbsoluteJump
  have h : RunsAs jumpAbsForms false .jumpTo := {}
  refine ⟨h.encoded, fun s => ⟨fun t rest hl => ?_, fun hl => ?_, h.eachImm fun i t hi => ?_⟩⟩
  · exact (h.exec_popped s).trans (jumpTo_of_target (cell_of_live hl 0))
  · exact (h.exec_popped s).trans (transfer_of_no_target (o := .popped) (cell_of_live hl 0)).2.1
  · exact (hi s).trans (jumpTo_of_target rfl)

/-- Settles O35: the two conditional templates under both tests, with the relative target read as a
signed sum. -/
theorem conditionalJumps : Obligations.ConditionalJumps := by
  unfold Obligations.ConditionalJumps
  exact ⟨conditionalRule_of_runsAs {} jumpToWhen_jumpsWhen isNonzero_iff fun _ _ => rfl,
    conditionalRule_of_runsAs {} jumpToWhen_jumpsWhen isZero_iff fun _ _ => rfl,
    conditionalRule_of_runsAs {} jumpByWhen_jumpsWhen isNonzero_iff add_eq_ofInt_toInt,
    conditionalRule_of_runsAs {} jumpByWhen_jumpsWhen isZero_iff add_eq_ofInt_toInt⟩

/-! ## Coming back from a call, and its obligation -/

/-- Writing the top cell replaces the top of the live values: a pop, then a push. -/
theorem live_setCell_top {x v : Word} {rest : List Word} (hl : s.live = x :: rest) :
    (s.setCell s.sp v).live = v :: rest := by
  obtain ⟨htop, hrest⟩ := live_cons hl
  have hpush := live_setCell_below_top (s := s.setSp (s.sp + 1)) (v := v) (Nat.succ_ne_zero _)
    (sp_lt_of_getElem? htop)
  exact hpush.trans (congrArg (v :: ·) hrest)

/-- With `ip` on top of `below`, `return` (46_control_flow.md R652) comes back. -/
theorem returnsTo_of_live {i : Instr} {t : State} {below : List Word} (hi : exec i s = .next t)
    (hlive : t.live = s.ip :: below) : ReturnsTo i s below := by
  obtain ⟨-, hjump⟩ := absoluteJump
  refine ⟨t, hi, hlive, fun u hu => ?_⟩
  have hul : u.live = s.ip :: below := hu.trans hlive
  obtain ⟨hpopped, -, -⟩ := hjump u
  obtain ⟨-, hbelow⟩ := live_cons hul
  exact ⟨_, hpopped _ _ hul, rfl, hbelow⟩

/-- Wherever it goes, a jump that pushes `ip` returns (46_control_flow.md R658). -/
theorem returnRule_of_linkingRule {f : Forms} {signed : Bool} (h : linkingRule f signed target)
    (s : State) : returnRule f signed s := by
  obtain ⟨-, hrule⟩ := h
  obtain ⟨hpopped, -, himm⟩ := hrule s
  refine ⟨fun x rest hl => ?_, fun hroom hle => eachImm_imp himm fun i t hi => ?_⟩
  · exact returnsTo_of_live (hpopped x rest hl) (live_setCell_top hl)
  · obtain ⟨hexec, -⟩ := hi
    exact returnsTo_of_live (hexec hroom) (live_setCell_below_top hroom hle)

/-- Settles O36: the rules of the two jumps that push `ip`. -/
theorem returnComesBack : Obligations.ReturnComesBack := by
  unfold Obligations.ReturnComesBack
  obtain ⟨hcall, hjumpRel⟩ := linkingJumps
  exact fun s => ⟨returnRule_of_linkingRule hcall s, returnRule_of_linkingRule hjumpRel s⟩

end Sys2Proof.Machine

end

/-! # System instructions (47_system.md): halt, syscall, and what a run of the hook comes to -/

section

namespace Sys2Proof.Machine

open Sys2Proof Sys2Proof.Claims

variable {s t u : State} {o : Operand} {n : Word} {hook : Nat} {run : List HookAct}
  {runs : List (List HookAct)}

/-! ## The primitives of the hook -/

theorem runHook_pop_of_live {v : Word} (hv : s.stack[s.sp]? = some v) (rest : List HookAct) :
    runHook (.pop :: rest) s = runHook rest (s.setSp (s.sp + 1)) :=
  congrArg (afterPrimitive · (runHook rest)) (pop_of_live hv)

theorem runHook_pop_of_empty (hv : s.stack[s.sp]? = none) (rest : List HookAct) :
    runHook (.pop :: rest) s = .next (raise .stackEmpty s) :=
  congrArg (afterPrimitive · (runHook rest)) (pop_of_empty hv)

theorem runHook_push_of_room (v : Word) (hroom : s.sp ≠ 0) (rest : List HookAct) :
    runHook (.push v :: rest) s = runHook rest ((s.setSp (s.sp - 1)).setCell (s.sp - 1) v) :=
  congrArg (afterPrimitive · (runHook rest)) (push_of_room v hroom)

theorem runHook_push_of_full (v : Word) (hfull : s.sp = 0) (rest : List HookAct) :
    runHook (.push v :: rest) s = .next (raise .stackFull s) :=
  congrArg (afterPrimitive · (runHook rest)) (push_of_full v hfull)

section Memory

variable {a : Word} {w : Width}

theorem runHook_memRead_of_inBounds (hb : InBounds a (widthBytes w) s.data.len)
    (rest : List HookAct) : runHook (.memRead a w :: rest) s = runHook rest s :=
  congrArg (afterPrimitive · (runHook rest)) (memRead_of_inBounds hb)

theorem runHook_memRead_of_not_inBounds (hb : ¬ InBounds a (widthBytes w) s.data.len)
    (rest : List HookAct) :
    runHook (.memRead a w :: rest) s = .next (raise .dataAddressOutOfBounds s) :=
  congrArg (afterPrimitive · (runHook rest)) (memRead_of_not_inBounds hb)

theorem runHook_memWrite_of_inBounds (v : Word) (hb : InBounds a (widthBytes w) s.data.len)
    (rest : List HookAct) :
    runHook (.memWrite a w v :: rest) s =
      runHook rest (s.setData (writeBytes s.data a.toNat (wordBytes (widthBytes w) v))) :=
  congrArg (afterPrimitive · (runHook rest)) (memWrite_of_inBounds hb)

theorem runHook_memWrite_of_not_inBounds (v : Word)
    (hb : ¬ InBounds a (widthBytes w) s.data.len) (rest : List HookAct) :
    runHook (.memWrite a w v :: rest) s = .next (raise .dataAddressOutOfBounds s) :=
  congrArg (afterPrimitive · (runHook rest)) (memWrite_of_not_inBounds hb)

end Memory

theorem runHook_raise {c : ErrCode} (hc : c ≠ .success) (rest : List HookAct) :
    runHook (.raise c :: rest) s = .next (raise c s) :=
  if_neg hc

theorem runHook_raise_success (rest : List HookAct) :
    runHook (.raise .success :: rest) s = .refused .hookRaisesSuccess :=
  if_pos rfl

/-! ## One action, and a whole run -/

/-- What one action of a hook can do, whatever the run holds after it: the run goes on, it ends with
a fault latched (47_system.md R708), or the action is none that keeps the duties and comes to an end
(R710), and stops the model. -/
inductive ActionEffect (act : HookAct) (s : State) : Prop where
  | goesOn (u : State) (h : ∀ rest, runHook (act :: rest) s = runHook rest u)
  | latches (u : State) (hu : u.Faulted) (h : ∀ rest, runHook (act :: rest) s = .next u)
  | stops (hd : act.dutiful = false) (h : ∀ rest t, runHook (act :: rest) s ≠ .next t)

/-- A primitive has the two cases of the operation it names, and no fault of the VM is `success`. -/
theorem actionEffect (act : HookAct) (s : State) : ActionEffect act s := by
  have latched (c : ErrCode) (hc : c ≠ .success)
      (he : ∀ rest, runHook (act :: rest) s = .next (raise c s)) : ActionEffect act s :=
    .latches _ hc he
  cases act with
  | inspect => exact .goesOn s fun _ => rfl
  | outside => exact .goesOn s fun _ => rfl
  | pop =>
    cases hv : s.stack[s.sp]? with
    | some v => exact .goesOn _ (runHook_pop_of_live hv)
    | none => exact latched _ (by decide) (runHook_pop_of_empty hv)
  | push v =>
    by_cases hfull : s.sp = 0
    · exact latched _ (by decide) (runHook_push_of_full v hfull)
    · exact .goesOn _ (runHook_push_of_room v hfull)
  | memRead a w =>
    by_cases hb : InBounds a (widthBytes w) s.data.len
    · exact .goesOn _ (runHook_memRead_of_inBounds hb)
    · exact latched _ (by decide) (runHook_memRead_of_not_inBounds hb)
  | memWrite a w v =>
    by_cases hb : InBounds a (widthBytes w) s.data.len
    · exact .goesOn _ (runHook_memWrite_of_inBounds v hb)
    · exact latched _ (by decide) (runHook_memWrite_of_not_inBounds v hb)
  | raise c =>
    by_cases hc : c = .success
    · subst hc
      exact .stops rfl fun rest t he => by cases (runHook_raise_success rest).symm.trans he
    · exact latched c hc (runHook_raise hc)
  | breach b => exact .stops rfl fun _ _ he => by cases he
  | spin => exact .stops rfl fun _ _ he => by cases he

/-- A dutiful run comes to an end, by its return or by a fault (47_system.md R708, R709). -/
theorem runHook_next_of_dutiful (hd : hookRunDutiful run = true) (s : State) :
    ∃ t, runHook run s = .next t := by
  induction run generalizing s with
  | nil => exact ⟨s, rfl⟩
  | cons act rest ih =>
    obtain ⟨hact, hrest⟩ := Bool.and_eq_true_iff.1 hd
    cases actionEffect act s with
    | goesOn u he =>
      rw [he]
      exact ih hrest u
    | latches u _ he => exact ⟨u, he rest⟩
    | stops hstop _ => exact absurd hact (by rw [hstop]; decide)

/-- A run that ends with nothing latched had no action fail, so a longer run goes on from there. -/
theorem runHook_append (hr : runHook run s = .next t) (ht : t.Ready) (more : List HookAct) :
    runHook (run ++ more) s = runHook more t := by
  induction run generalizing s with
  | nil =>
    cases hr
    rfl
  | cons act rest ih =>
    rw [List.cons_append]
    cases actionEffect act s with
    | goesOn u he =>
      rw [he] at hr ⊢
      exact ih hr
    | latches u hu he =>
      rw [he] at hr
      cases hr
      exact absurd ht hu
    | stops _ hstop => exact absurd hr (hstop rest t)

/-! ## syscall -/

/-- With a run of the hook on hand in the state, `syscall` performs it (log 1). -/
theorem sysCall_of_held_run (hn : o.value s = some n) (hh : s.hook = some hook)
    (hruns : s.hookRuns = run :: runs) :
    sysCall o s = runHook run
      { s with sp := s.sp + o.slots, hookRuns := runs, hookCount := s.hookCount + 1 } := by
  have hnext : nextHookRun hook n (s.setSp (s.sp + o.slots)) = run := by
    simp only [nextHookRun, State.setSp_hookRuns, hruns]
  rw [sysCall_of_hook hn hh, hnext, hruns]
  rfl

/-- With none on hand, it performs the free run of `Config.hookRun` (log 1). -/
theorem sysCall_of_no_held_run (hn : o.value s = some n) (hh : s.hook = some hook)
    (hruns : s.hookRuns = []) :
    sysCall o s = runHook (Config.hookRun hook s.hookCount n (hookView (s.setSp (s.sp + o.slots))))
      { s with sp := s.sp + o.slots, hookCount := s.hookCount + 1 } := by
  have hnext : nextHookRun hook n (s.setSp (s.sp + o.slots)) =
      Config.hookRun hook s.hookCount n (hookView (s.setSp (s.sp + o.slots))) := by
    simp only [nextHookRun, State.setSp_hookRuns, hruns, State.setSp_hookCount]
  have htail : s.hookRuns.tail = s.hookRuns := by rw [hruns, List.tail_nil]
  rw [sysCall_of_hook hn hh, hnext, htail]
  rfl

/-- An instruction that performs a dutiful run completes, in the bindings it began with; where the
run is empty, in the state the hook was called in (47_system.md R707-R709). -/
theorem completes_of_dutiful_run {i : Instr} (hi : exec i s = runHook run u)
    (hd : hookRunDutiful run = true) :
    (∃ t, exec i s = .next t ∧ SameBindings s t) ∧ (run = [] → exec i s = .next u) := by
  refine ⟨?_, fun hempty => ?_⟩
  · obtain ⟨t, ht⟩ := runHook_next_of_dutiful hd u
    have hnext : exec i s = .next t := hi.trans ht
    obtain ⟨hframe, -⟩ := exec_kept hnext
    exact ⟨t, hnext, hframe.sameBindings⟩
  · rw [hi, hempty, runHook]

/-! ## What the core latches -/

/-- `err` holds no `CallArgOutOfRange` (47_system.md R711). -/
def NoCallArg (s : State) : Prop := s.err ≠ .callArgOutOfRange

namespace NoCallArg

theorem raise {c : ErrCode} (hc : c ≠ .callArgOutOfRange) (s : State) :
    NoCallArg (Machine.raise c s) := hc

theorem pop : Keeps NoCallArg Machine.pop := by
  intro s hs
  obtain ⟨v, -, hp⟩ | ⟨-, hp⟩ := pop_cases s <;> rw [hp]
  · exact hs
  · exact raise (by decide) s

theorem push (v : Word) : Keeps NoCallArg (Machine.push v) := by
  intro s hs
  obtain ⟨-, hp⟩ | ⟨-, hp⟩ := push_cases v s <;> rw [hp]
  · exact hs
  · exact raise (by decide) s

theorem take (o : Operand) : Keeps NoCallArg o.take := by
  cases o with
  | popped => exact pop
  | imm v => exact fun _ hs => hs

theorem memRead (a : Word) (w : Width) : Keeps NoCallArg (Machine.memRead a w) := by
  intro s hs
  by_cases hb : InBounds a (widthBytes w) s.data.len
  · rw [memRead_of_inBounds hb]; exact hs
  · rw [memRead_of_not_inBounds hb]; exact raise (by decide) s

theorem memWrite (a : Word) (w : Width) (v : Word) : Keeps NoCallArg (Machine.memWrite a w v) := by
  intro s hs
  by_cases hb : InBounds a (widthBytes w) s.data.len
  · rw [memWrite_of_inBounds hb]; exact hs
  · rw [memWrite_of_not_inBounds hb]; exact raise (by decide) s

/-- The end of a block copy: two checks, then the write (45_block_copy.md R600, R601). -/
theorem checkedWrite {source dest : Prop} [Decidable source] [Decidable dest] {c d : ErrCode}
    (hc : c ≠ .callArgOutOfRange) (hd : d ≠ .callArgOutOfRange) (b : Buffer) (hs : NoCallArg s) :
    (if ¬ source then .raised (Machine.raise c s)
      else if ¬ dest then .raised (Machine.raise d s)
      else .ok () (s.setData b) : Res Unit).All NoCallArg := by
  split
  · exact raise hc s
  · split
    · exact raise hd s
    · exact hs

/-- The end of a conditional jump: a write of `ip` or none (46_control_flow.md R653, R656). -/
theorem ite_setIp (b : Bool) (v : Word) (hs : NoCallArg s) :
    NoCallArg (if b then s.setIp v else s) := by
  cases b <;> exact hs

/-- Without a hook, `syscall` can raise `StackEmpty` and `BadSyscall` (47_system.md R705). -/
theorem sysCall (hh : s.hook = none) (hr : Machine.sysCall o s = .next t) : NoCallArg t := by
  obtain ⟨n, hn, -⟩ | ⟨hn, -⟩ := take_cases o s
  · cases (sysCall_of_no_hook hn hh).symm.trans hr
    exact raise (by decide) _
  · cases (sysCall_of_no_number hn).symm.trans hr
    exact raise (by decide) _

end NoCallArg

/-- Every shape, `syscall` with a hook apart, is made of operations that never raise
`CallArgOutOfRange`. -/
theorem Shape.run_noCallArg {sh : Shape} (hsh : sh.isSyscall = false ∨ s.hook = none)
    (hs : NoCallArg s) (hr : sh.run s = .next t) : NoCallArg t := by
  have take (o : Operand) : (o.take s).All NoCallArg := NoCallArg.take o s hs
  have pop : (Machine.pop s).All NoCallArg := NoCallArg.pop s hs
  cases sh with
  | halt => cases hr; exact NoCallArg.raise (by decide) s
  | push v => exact (NoCallArg.push v s hs).of_outcome hr
  | drop =>
    refine (pop.andThen fun _ _ h1 => ?_).of_outcome hr
    exact h1
  | dup =>
    exact (pop.andThen fun x u h1 =>
      (NoCallArg.push x u h1).andThen fun _ => NoCallArg.push x).of_outcome hr
  | swap =>
    exact (pop.andThen fun y u h1 => (NoCallArg.pop u h1).andThen fun x u h2 =>
      (NoCallArg.push y u h2).andThen fun _ => NoCallArg.push x).of_outcome hr
  | binary o f =>
    exact ((take o).andThen fun _ u h1 =>
      (NoCallArg.pop u h1).andThen fun _ => NoCallArg.push _).of_outcome hr
  | unary o g => exact ((take o).andThen fun _ => NoCallArg.push _).of_outcome hr
  | load o w ext =>
    exact ((take o).andThen fun a u h1 =>
      (NoCallArg.memRead a w u h1).andThen fun _ => NoCallArg.push _).of_outcome hr
  | store o w =>
    exact ((take o).andThen fun a u h1 => (NoCallArg.pop u h1).andThen fun v u h2 =>
      (NoCallArg.memWrite a w v u h2).andThen fun _ => NoCallArg.push v).of_outcome hr
  | storeDiscard o w =>
    exact ((take o).andThen fun a u h1 =>
      (NoCallArg.pop u h1).andThen fun v => NoCallArg.memWrite a w v).of_outcome hr
  | dataCopy o =>
    refine ((take o).andThen fun _ u h1 => (NoCallArg.pop u h1).andThen fun _ u h2 =>
      (NoCallArg.pop u h2).andThen fun _ _ h3 => ?_).of_outcome hr
    exact NoCallArg.checkedWrite (by decide) (by decide) _ h3
  | programCopy o =>
    refine ((take o).andThen fun _ u h1 => (NoCallArg.pop u h1).andThen fun _ u h2 =>
      (NoCallArg.pop u h2).andThen fun _ _ h3 => ?_).of_outcome hr
    exact NoCallArg.checkedWrite (by decide) (by decide) _ h3
  | callTo o =>
    refine ((take o).andThen fun _ u h1 =>
      (NoCallArg.push u.ip u h1).andThen fun _ _ h2 => ?_).of_outcome hr
    exact h2
  | jumpTo o =>
    refine ((take o).andThen fun _ _ h1 => ?_).of_outcome hr
    exact h1
  | jumpToWhen o test =>
    refine (pop.andThen fun cond u h1 =>
      (NoCallArg.take o u h1).andThen fun addr u h2 => ?_).of_outcome hr
    exact NoCallArg.ite_setIp (test cond) addr h2
  | jumpBy o =>
    refine ((take o).andThen fun _ u h1 =>
      (NoCallArg.push u.ip u h1).andThen fun _ _ h2 => ?_).of_outcome hr
    exact h2
  | jumpByWhen o test =>
    refine (pop.andThen fun cond u h1 =>
      (NoCallArg.take o u h1).andThen fun delta u h2 => ?_).of_outcome hr
    exact NoCallArg.ite_setIp (test cond) (u.ip + delta) h2
  | sysCall o =>
    obtain hno | hh := hsh
    · cases hno
    · exact NoCallArg.sysCall hh hr

/-! ## The obligations -/

/-- Settles O37: halt's one byte is fetched and committed past, and its fault ends the call. -/
theorem haltStopsTheProgram : Obligations.HaltStopsTheProgram := by
  unfold Obligations.HaltStopsTheProgram
  have reserved : ∀ opc ∈ [0x40, 0x80, 0xC0], reservedOpcode opc = true := by decide
  refine ⟨rfl, fun opc hopc => raisesBadOpcode_of_reserved (reserved opc hopc), fun s => rfl,
    fun s hb hr hlen hzero => ?_⟩
  have hat : ∀ j b, (encode .halt)[j]? = some b → Buffer.get s.program (s.ip.toNat + j) = b
    | 0, _, rfl => hzero
  exact (encodedInstructionRuns s .halt hb hr hlen hat).trans (closeOutcome_raise (by decide) _)

/-- Settles O38: the four forms run the syscall template, over the popped or the immediate call
number. -/
theorem syscallCallsTheHook : Obligations.SyscallCallsTheHook := by
  unfold Obligations.SyscallCallsTheHook
  have hrun : RunsAs syscallForms false .sysCall := {}
  refine ⟨hrun.encoded, fun s => ⟨fun hl => ?_, fun n rest hl => ?_, hrun.eachImm fun i n hi => ?_⟩⟩
  · exact (hrun.exec_popped s).trans (sysCall_of_no_number (o := .popped) (cell_of_live hl 0))
  · have hn : Operand.popped.value s = some n := cell_of_live hl 0
    exact ⟨fun hh => (hrun.exec_popped s).trans (sysCall_of_no_hook hn hh), fun h hh =>
      ⟨fun run runs hruns => (hrun.exec_popped s).trans (sysCall_of_held_run hn hh hruns),
        fun hruns => (hrun.exec_popped s).trans (sysCall_of_no_held_run hn hh hruns)⟩⟩
  · have hn : (Operand.imm n).value s = some n := rfl
    exact ⟨fun hh => (hi s).trans (sysCall_of_no_hook hn hh), fun h hh =>
      ⟨fun run runs hruns => (hi s).trans (sysCall_of_held_run hn hh hruns),
        fun hruns => (hi s).trans (sysCall_of_no_held_run hn hh hruns)⟩⟩

/-- Settles O39: every form performs the run on hand, and a dutiful run comes to an end. -/
theorem syscallWithDutifulHookCompletes : Obligations.SyscallWithDutifulHookCompletes := by
  unfold Obligations.SyscallWithDutifulHookCompletes
  intro s h run runs hh hruns hd
  obtain ⟨-, hcalls⟩ := syscallCallsTheHook
  obtain ⟨-, hpopped, himm⟩ := hcalls s
  refine ⟨fun n rest hl => ?_, eachImm_imp himm fun i n hi => ?_⟩
  · obtain ⟨-, hhook⟩ := hpopped n rest hl
    obtain ⟨hheld, -⟩ := hhook h hh
    exact completes_of_dutiful_run (hheld run runs hruns) hd
  · obtain ⟨-, hhook⟩ := hi
    obtain ⟨hheld, -⟩ := hhook h hh
    exact completes_of_dutiful_run (hheld run runs hruns) hd

/-- Settles O40: each primitive by the cases of the operation it names. -/
theorem hookPrimitivesAct : Obligations.HookPrimitivesAct := by
  unfold Obligations.HookPrimitivesAct
  exact fun s rest => ⟨rfl, rfl, rfl,
    fun v more hl => runHook_pop_of_live (cell_of_live hl 0) rest,
    fun hl => runHook_pop_of_empty (cell_of_live hl 0) rest,
    fun v hroom => runHook_push_of_room v hroom rest,
    fun v hfull => runHook_push_of_full v hfull rest,
    fun a w hb => runHook_memRead_of_inBounds hb rest,
    fun a w hb => runHook_memRead_of_not_inBounds (Nat.not_le.2 hb) rest,
    fun a w v hwf hb =>
      ⟨_, stored_writeBytes v hwf hb, runHook_memWrite_of_inBounds v hb rest⟩,
    fun a w v hb => runHook_memWrite_of_not_inBounds v (Nat.not_le.2 hb) rest,
    fun c hc => runHook_raise hc rest⟩

/-- Settles O41: the run reaches the action that stops it. -/
theorem hookBreachesAreRefused : Obligations.HookBreachesAreRefused := by
  unfold Obligations.HookBreachesAreRefused
  intro s t run rest _ hr herr hready
  have reached (act : HookAct) : runHook (run ++ act :: rest) s = runHook (act :: rest) t :=
    runHook_append hr (herr.trans hready) (act :: rest)
  exact ⟨fun b => reached (.breach b),
    (reached (.raise .success)).trans (runHook_raise_success rest), reached .spin⟩

/-- Settles O42: no operation of the core raises `CallArgOutOfRange`. -/
theorem coreNeverRaisesCallArg : Obligations.CoreNeverRaisesCallArg := by
  unfold Obligations.CoreNeverRaisesCallArg
  intro i s t hs hi h
  rw [isSyscall_eq_shape] at hi
  rw [exec_eq_run] at h
  exact Shape.run_noCallArg hi hs h

end Sys2Proof.Machine

end

/-! # The frame codec (48_frame_codec.md): reading byte by byte, and what comes out of the decoder -/

section

namespace Sys2Proof.Machine

open Sys2Proof Sys2Proof.Claims

variable {s t : State} {d : Decoder}

/-! ## What the decoder stores -/

theorem decStore_nil (d : Decoder) : decStore d [] = d := by
  simp [decStore]

/-- Two reads one after the other store what one read of all their bytes stores. -/
theorem decStore_append (got more : List Byte) (h : d.idx ≤ d.buf.length) :
    decStore (decStore d got) more = decStore d (got ++ more) := by
  have hlen : (d.buf.take d.idx ++ got).length = d.idx + got.length := by
    rw [List.length_append, List.length_take_of_le h]
  have htail : (d.buf.take d.idx ++ got ++ d.buf.drop (d.idx + got.length)).drop
      (d.idx + got.length + more.length) = d.buf.drop (d.idx + (got ++ more).length) := by
    rw [← List.drop_drop, List.drop_left' hlen, List.drop_drop, List.length_append, Nat.add_assoc]
  rw [decStore, decStore, decStore]
  simp only [Decoder.mk.injEq, true_and]
  refine ⟨?_, by rw [List.length_append, Nat.add_assoc]⟩
  rw [htail, List.take_left' hlen]
  simp only [List.append_assoc]

/-- What is read while a header is awaited stands at the start of the buffer. -/
theorem decStore_buf_of_waiting (got : List Byte) (h : d.idx = 0) :
    (decStore d got).buf = got ++ d.buf.drop got.length := by
  simp [decStore, h]

theorem decLength_of_buf {h : Byte} {more : List Byte} (hb : d.buf = h :: more) :
    decLength d = h.toNat % 64 := by
  rw [decLength, hb, List.headD_cons, headerLength_eq]

theorem Decoder.Inv.idx_le_buf (h : d.Inv) : d.idx ≤ d.buf.length := by
  obtain ⟨hlen, hidx⟩ := h
  have hmax : decLength d ≤ 63 := headerLength_le _
  omega

/-- A frame not yet complete lacks a byte (10_state.md R121). -/
theorem Decoder.Inv.idx_ne (h : d.Inv) : d.idx ≠ decLength d + 1 := by
  obtain ⟨-, hidx⟩ := h
  omega

/-- The decoder always asks for something (48_frame_codec.md R771). -/
theorem Decoder.Inv.decWant_pos (h : d.Inv) : 0 < decWant d := by
  obtain ⟨-, hidx⟩ := h
  unfold decWant
  split <;> omega

/-- A read of no more than was asked that leaves the frame incomplete keeps the invariant. -/
theorem Decoder.Inv.of_incomplete_read {got : List Byte} (h : d.Inv) (hg : got.length ≤ decWant d)
    (hn : (decStore d got).idx ≠ decLength (decStore d got) + 1) :
    (decStore d got).Inv :=
  ⟨decStore_buf_length_of_inv h hg, .inr (by have := decStore_idx_le h hg; omega)⟩

/-! ## The decoder and its callbacks -/

/-- The decoder and the callbacks it has made. -/
structure Decoding where
  dec : Decoder
  events : List DecEvent

/-- A state's decoder and callbacks. -/
def State.decoding (s : State) : Decoding := ⟨s.dec, s.events⟩

@[simp] theorem State.decoding_dec (s : State) : s.decoding.dec = s.dec := rfl

@[simp] theorem State.decoding_events (s : State) : s.decoding.events = s.events := rfl

/-- What an accepted read does (48_frame_codec.md R771, R772). -/
def Decoding.read (v : Decoding) (got : List Byte) : Decoding :=
  if (decStore v.dec got).idx = decLength (decStore v.dec got) + 1 then
    ⟨{ decStore v.dec got with idx := 0 }, v.events ++ frameEvents (decStore v.dec got)⟩
  else ⟨decStore v.dec got, v.events⟩

/-- What reads of single bytes do, one after another. -/
def Decoding.readEach (v : Decoding) (bytes : List Byte) : Decoding :=
  bytes.foldl (fun v b => v.read [b]) v

namespace Decoding

variable {v : Decoding} {got : List Byte}

theorem read_of_complete
    (h : (decStore v.dec got).idx = decLength (decStore v.dec got) + 1) :
    v.read got =
      ⟨{ decStore v.dec got with idx := 0 }, v.events ++ frameEvents (decStore v.dec got)⟩ :=
  if_pos h

theorem read_of_incomplete
    (h : (decStore v.dec got).idx ≠ decLength (decStore v.dec got) + 1) :
    v.read got = ⟨decStore v.dec got, v.events⟩ :=
  if_neg h

theorem read_nil (h : v.dec.Inv) : v.read [] = v := by
  rw [read_of_incomplete (by rw [decStore_nil]; exact h.idx_ne), decStore_nil]

theorem readEach_nil (v : Decoding) : v.readEach [] = v := rfl

theorem readEach_cons (v : Decoding) (b : Byte) (rest : List Byte) :
    v.readEach (b :: rest) = (v.read [b]).readEach rest := rfl

theorem readEach_append (v : Decoding) (xs ys : List Byte) :
    v.readEach (xs ++ ys) = (v.readEach xs).readEach ys :=
  List.foldl_append

/-- One accepted read does what reads of its bytes one after another do (48_frame_codec.md R775): all
but the last leave the frame incomplete. -/
theorem readEach_eq_read (h : v.dec.Inv) (hg : got.length ≤ decWant v.dec) :
    v.readEach got = v.read got := by
  induction got generalizing v with
  | nil => exact (read_nil h).symm
  | cons b rest ih =>
    rw [readEach_cons]
    by_cases hrest : rest = []
    · rw [hrest, readEach_nil]
    · have hpos : 0 < rest.length := List.length_pos_iff.2 hrest
      have hb : v.dec.buf ≠ [] := List.ne_nil_of_length_eq_add_one h.1
      rw [List.length_cons] at hg
      have hidx : v.dec.idx ≠ 0 := fun h0 => by rw [decWant, if_pos h0] at hg; omega
      have hlen := decLength_decStore v.dec [b] hidx hb
      rw [decWant, if_neg hidx] at hg
      have hn : (decStore v.dec [b]).idx ≠ decLength (decStore v.dec [b]) + 1 := by
        rw [decStore_idx, hlen, List.length_singleton]; omega
      have hinv : (decStore v.dec [b]).Inv :=
        h.of_incomplete_read (by rw [List.length_singleton]; exact h.decWant_pos) hn
      have hwant : rest.length ≤ decWant (decStore v.dec [b]) := by
        rw [decWant, hlen, decStore_idx, List.length_singleton, if_neg (Nat.succ_ne_zero _)]; omega
      rw [read_of_incomplete hn, ih hinv hwant, read, read, decStore_append [b] rest h.idx_le_buf]
      rfl

end Decoding

/-! ## Steps of the decoder -/

theorem readFrameStep_accepts {got : List Byte} (h : got.length ≤ decWant s.dec) :
    ∃ t, readFrameStep got s = .next t := by
  obtain ⟨hn, -⟩ | ⟨-, hr⟩ | ⟨-, -, -, hr⟩ | ⟨-, -, -, hr⟩ := readFrameStep_cases got s
  · omega
  · exact ⟨_, hr⟩
  · exact ⟨_, hr⟩
  · exact ⟨_, hr⟩

theorem readFrameStep_of_nil (s : State) :
    readFrameStep [] s = .next (s.setRet (.codec .noData)) :=
  if_neg (Nat.not_lt_zero _)

theorem readFrameStep_of_too_much {got : List Byte} (h : decWant s.dec < got.length) :
    readFrameStep got s = .refused .readReportsTooMuch :=
  if_pos h

/-- An accepted read, taken apart. -/
theorem readFrameStep_decoding {got : List Byte} (hi : s.dec.Inv)
    (h : readFrameStep got s = .next t) :
    got.length ≤ decWant s.dec ∧ t.decoding = s.decoding.read got := by
  obtain ⟨-, hr⟩ | ⟨rfl, hr⟩ | ⟨-, hg, hc, hr⟩ | ⟨-, hg, hn, hr⟩ := readFrameStep_cases got s <;>
    cases hr.symm.trans h
  · exact ⟨Nat.zero_le _, (Decoding.read_nil (v := s.decoding) hi).symm⟩
  · exact ⟨hg, (Decoding.read_of_complete (v := s.decoding) hc).symm⟩
  · exact ⟨hg, (Decoding.read_of_incomplete (v := s.decoding) hn).symm⟩

theorem readFrameStep_readEach {got : List Byte} (hi : s.dec.Inv)
    (h : readFrameStep got s = .next t) : t.decoding = s.decoding.readEach got := by
  obtain ⟨hg, hread⟩ := readFrameStep_decoding hi h
  rw [hread, Decoding.readEach_eq_read hi hg]

theorem feed_cons_of_next {chunk : List Byte} (h : readFrameStep chunk s = .next t)
    (rest : List (List Byte)) : feed (chunk :: rest) s = feed rest t := by
  simp only [feed, h]

/-- A run of reads that are all accepted, taken apart. -/
theorem feed_cons_some {chunk : List Byte} {rest : List (List Byte)} {u : State}
    (h : feed (chunk :: rest) s = some u) :
    ∃ t, readFrameStep chunk s = .next t ∧ feed rest t = some u := by
  cases hr : readFrameStep chunk s with
  | next t => exact ⟨t, rfl, (feed_cons_of_next hr rest).symm.trans h⟩
  | fault r => simp [feed, hr] at h
  | refused r => simp [feed, hr] at h

/-- However a byte stream is split into accepted reads, it does what its single bytes do. -/
theorem feed_decoding {chunks : List (List Byte)} (hi : s.dec.Inv) (h : feed chunks s = some t) :
    t.decoding = s.decoding.readEach chunks.flatten := by
  induction chunks generalizing s with
  | nil =>
    cases h
    rfl
  | cons chunk rest ih =>
    obtain ⟨u, hu, hrest⟩ := feed_cons_some h
    rw [ih ((readFrameStep_codecStep hu).dec hi) hrest, readFrameStep_readEach hi hu,
      List.flatten_cons, Decoding.readEach_append]

/-- Reads of single bytes are accepted. -/
theorem feed_bytes_accepts (bytes : List Byte) (hi : s.dec.Inv) :
    ∃ t, feed (bytes.map fun b => [b]) s = some t := by
  induction bytes generalizing s with
  | nil => exact ⟨s, rfl⟩
  | cons b rest ih =>
    obtain ⟨u, hu⟩ := readFrameStep_accepts (got := [b]) hi.decWant_pos
    rw [List.map_cons, feed_cons_of_next hu]
    exact ih ((readFrameStep_codecStep hu).dec hi)

/-! ## A whole frame -/

theorem frameHeader_eq_headerByte (final delim : Bool) {n : Nat} (h : n ≤ 63) :
    frameHeader final delim n = headerByte final delim n := by
  have : ∀ m : Fin 64, frameHeader final delim m.val = headerByte final delim m.val := by
    cases final <;> cases delim <;> decide
  exact this ⟨n, by omega⟩

/-- The decoder waits for a header (10_state.md R121). -/
def Decoder.Waiting (d : Decoder) : Prop := d.idx = 0 ∧ d.buf.length = 64

theorem Decoder.Waiting.inv (h : d.Waiting) : d.Inv := ⟨h.2, .inl h.1⟩

section Frame

variable {final delim : Bool} {payload : List Byte}

/-- The frame of 30_encoding.md R350 and R351 with the given flags and payload. -/
def frameOf (final delim : Bool) (payload : List Byte) : List Byte :=
  headerByte final delim payload.length :: payload

theorem decLength_of_frameOf {more : List Byte} (hp : payload.length ≤ 63)
    (hb : d.buf = headerByte final delim payload.length :: more) : decLength d = payload.length := by
  rw [decLength, hb, List.headD_cons, ← frameHeader_eq_headerByte final delim hp,
    frameHeader_length final delim hp]

/-- A buffered frame makes the callbacks its header says (48_frame_codec.md R772). -/
theorem frameEvents_of_frameOf {more : List Byte} (hp : payload.length ≤ 63)
    (hb : d.buf = frameOf final delim payload ++ more) :
    frameEvents d = eventsOf final delim payload := by
  obtain ⟨hfinal, hdelim⟩ := frameHeader_flags final delim hp
  rw [frameHeader_eq_headerByte final delim hp] at hfinal hdelim
  rw [frameEvents, decLength_of_frameOf hp hb, hb, frameOf, List.cons_append, List.headD_cons,
    hfinal, hdelim, List.drop_succ_cons, List.drop_zero, List.take_left, eventsOf]
  simp only [gt_iff_lt, List.length_pos_iff, ite_not]

/-- The whole frame is in the buffer when its last byte is. -/
theorem decStore_frame_complete (hd : d.Waiting) (hp : payload.length ≤ 63) :
    (decStore d (frameOf final delim payload)).idx =
      decLength (decStore d (frameOf final delim payload)) + 1 := by
  have hbuf := decStore_buf_of_waiting (frameOf final delim payload) hd.1
  rw [decLength_of_frameOf hp hbuf, decStore_idx, hd.1, Nat.zero_add, frameOf, List.length_cons]

/-- Behind the header of a frame with a payload, the decoder asks for the payload. -/
theorem decStore_header_pending (hd : d.Waiting) (hp : payload.length ≤ 63) (hne : payload ≠ []) :
    (decStore d [headerByte final delim payload.length]).idx ≠
        decLength (decStore d [headerByte final delim payload.length]) + 1 ∧
      decWant (decStore d [headerByte final delim payload.length]) = payload.length := by
  have hbuf := decStore_buf_of_waiting [headerByte final delim payload.length] hd.1
  have hpos : 0 < payload.length := List.length_pos_iff.2 hne
  rw [decWant, decLength_of_frameOf hp hbuf, decStore_idx, hd.1, List.length_singleton]
  refine ⟨by omega, ?_⟩
  rw [if_neg (by decide)]
  omega

/-- A decoder that waits for a header reads a whole frame byte by byte: it makes the frame's callbacks
once, in order, and waits for the next header. -/
theorem Decoding.readEach_frame {v : Decoding} (hd : v.dec.Waiting) (hp : payload.length ≤ 63) :
    v.readEach (frameOf final delim payload) =
      ⟨{ decStore v.dec (frameOf final delim payload) with idx := 0 },
        v.events ++ eventsOf final delim payload⟩ := by
  have hcomplete := decStore_frame_complete (final := final) (delim := delim) hd hp
  rw [← frameEvents_of_frameOf hp (decStore_buf_of_waiting _ hd.1)]
  by_cases hne : payload = []
  · subst hne
    exact read_of_complete hcomplete
  · obtain ⟨hn, hwant⟩ := decStore_header_pending (final := final) (delim := delim) hd hp hne
    have hinv := hd.inv.of_incomplete_read (got := [_]) hd.inv.decWant_pos hn
    have happend := decStore_append [headerByte final delim payload.length] payload
      hd.inv.idx_le_buf
    rw [frameOf, readEach_cons, read_of_incomplete hn, readEach_eq_read hinv hwant.ge,
      read_of_complete] <;> rw [happend]
    · rfl
    · exact hcomplete

theorem Decoding.readEach_frame_waiting {v : Decoding} (hd : v.dec.Waiting)
    (hp : payload.length ≤ 63) : (v.readEach (frameOf final delim payload)).dec.Waiting := by
  rw [readEach_frame hd hp]
  refine ⟨rfl, decStore_buf_length _ _ hd.2 ?_⟩
  rw [hd.1, frameOf, List.length_cons]
  omega

/-- The header by itself and the payload at once are accepted. -/
theorem feed_header_payload_accepts (hd : s.dec.Waiting) (hp : payload.length ≤ 63) :
    ∃ t, feed [[headerByte final delim payload.length], payload] s = some t := by
  obtain ⟨u, hu⟩ := readFrameStep_accepts (got := [headerByte final delim payload.length])
    hd.inv.decWant_pos
  have hwant : payload.length ≤ decWant u.dec := by
    by_cases hne : payload = []
    · simp [hne]
    · obtain ⟨hn, hwant⟩ := decStore_header_pending (final := final) (delim := delim) hd hp hne
      obtain ⟨-, hread⟩ := readFrameStep_decoding hd.inv hu
      rw [Decoding.read_of_incomplete hn] at hread
      have hdec : u.dec = decStore s.dec [headerByte final delim payload.length] :=
        congrArg Decoding.dec hread
      rw [hdec, hwant]
  obtain ⟨t, ht⟩ := readFrameStep_accepts hwant
  exact ⟨t, by rw [feed_cons_of_next hu, feed_cons_of_next ht, feed]⟩

end Frame

/-! ## Frames that carry a byte string -/

theorem payloadOf_append (xs ys : List DecEvent) :
    payloadOf (xs ++ ys) = payloadOf xs ++ payloadOf ys := by
  induction xs with
  | nil => rfl
  | cons x rest ih => cases x <;> simp [payloadOf, ih]

theorem payloadOf_eventsOf (final delim : Bool) (payload : List Byte) :
    payloadOf (eventsOf final delim payload) = payload := by
  rw [eventsOf, payloadOf_append, payloadOf_append]
  have hdelim : payloadOf (if delim then [.delimiter] else []) = [] := by cases delim <;> rfl
  have hfinal : payloadOf (if final then [.final] else []) = [] := by cases final <;> rfl
  have hdata : payloadOf (if payload = [] then [] else [.data payload]) = payload := by
    split
    · next h => rw [h, payloadOf]
    · rw [payloadOf, payloadOf, List.append_nil]
  rw [hdelim, hfinal, hdata, List.nil_append, List.append_nil]

/-- Frames whose payloads, one after another, are the given bytes. -/
inductive Carries : List (List Byte) → List Byte → Prop where
  | nil : Carries [] []
  | cons (final delim : Bool) {payload : List Byte} (hp : payload.length ≤ 63)
      {frames : List (List Byte)} {bytes : List Byte} (h : Carries frames bytes) :
      Carries (frameOf final delim payload :: frames) (payload ++ bytes)

theorem Carries.append {frames more : List (List Byte)} {bytes bytes' : List Byte}
    (h : Carries frames bytes) (k : Carries more bytes') :
    Carries (frames ++ more) (bytes ++ bytes') := by
  induction h with
  | nil => exact k
  | cons final delim hp _ ih =>
    rw [List.append_assoc]
    exact .cons final delim hp ih

/-- A decoder that waits for a header delivers the bytes the frames carry, and waits for the next. -/
theorem Carries.decoded {frames : List (List Byte)} {bytes : List Byte} (h : Carries frames bytes)
    {v : Decoding} (hd : v.dec.Waiting) :
    (v.readEach frames.flatten).dec.Waiting ∧
      ∃ es, (v.readEach frames.flatten).events = v.events ++ es ∧ payloadOf es = bytes := by
  induction h generalizing v with
  | nil => exact ⟨hd, [], (List.append_nil _).symm, rfl⟩
  | @cons final delim payload hp _ _ _ ih =>
    obtain ⟨hwait, es, hes, hpay⟩ := ih (Decoding.readEach_frame_waiting hd hp)
    rw [List.flatten_cons, Decoding.readEach_append]
    refine ⟨hwait, eventsOf final delim payload ++ es, ?_, ?_⟩
    · rw [hes, Decoding.readEach_frame hd hp, List.append_assoc]
    · rw [payloadOf_append, payloadOf_eventsOf, hpay]

/-! ## What the encoder passes on -/

/-- The payload bytes waiting for the next flush (10_state.md R120). -/
def Encoder.pending (e : Encoder) : List Byte := e.payload.take e.count

theorem Encoder.pending_of_empty {e : Encoder} (h : e.count = 0) : e.pending = [] := by
  rw [pending, h, List.take_zero]

/-- The encoder with one more byte pending, before the check for a full frame (48_frame_codec.md
R753). -/
def Encoder.store (e : Encoder) (b : Byte) : Encoder :=
  { e with payload := e.payload.set e.count b, count := e.count + 1 }

theorem Encoder.pending_store {e : Encoder} (b : Byte) (h : e.count < e.payload.length) :
    (e.store b).pending = e.pending ++ [b] := by
  simp only [pending, store]
  rw [List.take_add_one, List.take_set_of_le (Nat.le_refl _), List.getElem?_set_self h,
    Option.toList_some]

/-- Between two states the encoder took in `bytes`: the frames it passed to the sink carry what was
pending and these bytes, up to what is pending still. -/
def TakesIn (s : State) (bytes : List Byte) (t : State) : Prop :=
  ∃ new sent, t.frames = s.frames ++ new ∧ Carries new sent ∧
    sent ++ t.enc.pending = s.enc.pending ++ bytes

theorem TakesIn.refl (s : State) : TakesIn s [] s :=
  ⟨[], [], (List.append_nil _).symm, .nil, (List.append_nil _).symm⟩

theorem TakesIn.trans {u : State} {bytes bytes' : List Byte} (h : TakesIn s bytes t)
    (k : TakesIn t bytes' u) : TakesIn s (bytes ++ bytes') u := by
  obtain ⟨new, sent, hframes, hcarries, hsent⟩ := h
  obtain ⟨new', sent', hframes', hcarries', hsent'⟩ := k
  refine ⟨new ++ new', sent ++ sent', ?_, hcarries.append hcarries', ?_⟩
  · rw [hframes', hframes, List.append_assoc]
  · rw [List.append_assoc, hsent', ← List.append_assoc, hsent, List.append_assoc]

theorem takesIn_store (b : Byte) (h : s.enc.Inv) : TakesIn s [b] (s.setEnc (s.enc.store b)) := by
  obtain ⟨hlen, hcount⟩ := h
  exact ⟨[], [], (List.append_nil _).symm, .nil, Encoder.pending_store b (by omega)⟩

/-- A flush passes on all that is pending in one frame, and empties the encoder (48_frame_codec.md
R752). -/
theorem encFlush_eq (hc : s.enc.count ≤ 63) :
    encFlush s = { s with
      enc := { s.enc with count := 0, final := false, delim := false }
      frames := s.frames ++ [headerByte s.enc.final s.enc.delim s.enc.count :: s.enc.pending] } := by
  rw [← frameHeader_eq_headerByte _ _ hc]
  rfl

theorem encFlush_takesIn (hl : s.enc.payload.length = 63) (hc : s.enc.count ≤ 63) :
    TakesIn s [] (encFlush s) := by
  have hpend : s.enc.pending.length = s.enc.count := List.length_take_of_le (hl ▸ hc)
  refine ⟨[frameOf s.enc.final s.enc.delim s.enc.pending], s.enc.pending ++ [], ?_,
    .cons _ _ (hpend ▸ hc) .nil, ?_⟩
  · rw [encFlush_eq hc, frameOf, hpend]
  · rw [Encoder.pending_of_empty (e := (encFlush s).enc) rfl, List.append_nil]

theorem appendU8_takesIn (b : Byte) (h : s.enc.Inv) : TakesIn s [b] (appendU8 b s) := by
  have hstore := takesIn_store b h
  obtain ⟨hlen, hcount⟩ := h
  obtain ⟨-, he⟩ | ⟨-, he⟩ := appendU8_cases b s <;> rw [he]
  · exact hstore.trans (encFlush_takesIn ((List.length_set ..).trans hlen) (Nat.succ_le_succ hcount))
  · exact hstore

theorem appendBuf_takesIn (bytes : List Byte) (h : s.enc.Inv) :
    TakesIn s bytes (appendBuf bytes s) := by
  induction bytes generalizing s with
  | nil => exact .refl s
  | cons b rest ih => exact (appendU8_takesIn b h).trans (ih (appendU8_inv b h))

theorem encWrite_takesIn (h : s.enc.Inv) : TakesIn s [] (encWrite s).1 := by
  obtain ⟨-, he⟩ | ⟨-, he⟩ := encWrite_cases s <;> rw [he]
  · exact .refl s
  · exact encFlush_takesIn h.1 (h.2.trans (by decide))

theorem encWrite_count (s : State) : (encWrite s).1.enc.count = 0 := by
  obtain ⟨hc, he⟩ | ⟨-, he⟩ := encWrite_cases s <;> rw [he]
  · exact hc
  · rfl

/-- An append that completes a frame, as one update of the state: all 63 cells are pending at its flush
(48_frame_codec.md R753). -/
theorem appendU8_of_full_eq (b : Byte) (hlen : s.enc.payload.length = 63) (hfull : s.enc.count = 62) :
    appendU8 b s = { s with
      enc := { s.enc with payload := s.enc.payload.set 62 b, count := 0, final := false,
                          delim := false }
      frames := s.frames ++
        [headerByte s.enc.final s.enc.delim 63 :: (s.enc.payload.take 62 ++ [b])] } := by
  have hroom : s.enc.count < s.enc.payload.length := by rw [hlen, hfull]; decide
  have hcount : (s.enc.store b).count = 63 := congrArg (· + 1) hfull
  have hpend : (s.enc.store b).pending = s.enc.payload.take 62 ++ [b] := by
    rw [Encoder.pending_store b hroom, Encoder.pending, hfull]
  have hflush := encFlush_eq (s := s.setEnc (s.enc.store b)) hcount.le
  rw [State.setEnc_enc, hpend, hcount] at hflush
  refine (appendU8_of_full b hfull).trans (hflush.trans ?_)
  rw [Encoder.store, hfull]
  rfl

/-! ## The encoder's commands -/

/-- A command to an initialised encoder does its operation and returns its result. -/
theorem step_of_encoder_command {f : State → State × CodecResult} {c : HostCall}
    {rest : List HostCall} (hc : Calling s c rest) (hb : s.enc.bound = true)
    (hcall : ∀ t, hostCall c t = withEncoder f t) :
    step s = .next ((f (s.setCalls rest)).1.setRet (.codec (f (s.setCalls rest)).2)) := by
  have hb' : (s.setCalls rest).enc.bound = true := hb
  rw [step_of_call hc, hcall, withEncoder_of_bound f hb']

theorem step_appendU8 {rest : List HostCall} {b : Byte} (hc : Calling s (.appendU8 b) rest)
    (hb : s.enc.bound = true) :
    step s = .next ((appendU8 b (s.setCalls rest)).setRet (.codec .ok)) :=
  step_of_encoder_command hc hb fun _ => rfl

/-- `append_u8` of bytes one after another does what `append_buf` of them does, up to what is returned
(48_frame_codec.md R754). -/
theorem run_appendU8s (bytes : List Byte) (rest : List HostCall) (hn : s.budget = 0)
    (hb : s.enc.bound = true) :
    ∃ u, Sys2Proof.core.run bytes.length (s.setCalls (bytes.map HostCall.appendU8 ++ rest)) =
        .next u ∧
      u.setRet (.codec .ok) = ((appendBuf bytes s).setCalls rest).setRet (.codec .ok) := by
  induction bytes generalizing s with
  | nil => exact ⟨s.setCalls rest, rfl, rfl⟩
  | cons b more ih =>
    have hbudget : (appendU8 b s).budget = 0 :=
      (congrArg State.budget (appendU8_frame b s).rest :).trans hn
    have hbound : (appendU8 b s).enc.bound = true := (appendU8_bound b s).trans hb
    obtain ⟨u, hrun, hu⟩ := ih (s := (appendU8 b s).setRet (.codec .ok)) hbudget hbound
    refine ⟨u, ?_, ?_⟩
    · have hstep := step_appendU8 (s := s.setCalls ((b :: more).map HostCall.appendU8 ++ rest))
        ⟨hn, rfl⟩ hb
      rw [appendU8_setCalls, appendU8_setCalls] at hstep
      rw [List.length_cons, run_succ_of_next _ hstep]
      exact hrun
    · rw [hu, appendBuf_setRet]
      rfl

/-! ## The obligations -/

/-- Settles O60: the frames passed to the sink carry the bytes appended, none is pending after `write`,
and a decoder that waits for a header delivers what frames carry. -/
theorem codecRoundTrip : Obligations.CodecRoundTrip := by
  unfold Obligations.CodecRoundTrip
  intro s bytes hinv hcount hidx
  obtain ⟨-, henc, hdec, -⟩ := hinv
  obtain ⟨new, sent, hframes, hcarries, hsent⟩ :=
    (appendBuf_takesIn bytes henc).trans (encWrite_takesIn (appendBuf_inv bytes henc))
  rw [Encoder.pending_of_empty (encWrite_count _), Encoder.pending_of_empty hcount,
    List.append_nil, List.append_nil, List.nil_append] at hsent
  subst hsent
  obtain ⟨u, hu⟩ := feed_bytes_accepts new.flatten hdec
  have hdecoding : u.decoding = s.decoding.readEach new.flatten := by
    rw [feed_decoding hdec hu, ← List.flatMap_def, List.flatMap_singleton']
  obtain ⟨hwait, es, hes, hpay⟩ := hcarries.decoded (v := s.decoding) ⟨hidx, hdec.1⟩
  rw [← hdecoding] at hwait hes
  have hevents : u.events = s.events ++ es := hes
  exact ⟨new, u, hframes, hu, hwait.1, by rw [hevents, List.drop_left, hpay]⟩

/-- Settles O52: the two cases of the check for a full frame that follows the append. -/
theorem appendFlushesAtSixtyThree : Obligations.AppendFlushesAtSixtyThree := by
  unfold Obligations.AppendFlushesAtSixtyThree
  intro s rest b hc hb hinv
  obtain ⟨hlen, -⟩ := hinv
  rw [step_appendU8 hc hb, appendU8_setCalls]
  refine ⟨fun hroom => ?_, fun hfull => ?_⟩
  · rw [appendU8_of_room b hroom]
    rfl
  · rw [appendU8_of_full_eq b hlen hfull]
    rfl

/-- Settles O53: by induction on the bytes; what the call before returned plays no part. -/
theorem appendBufIsRepeatedAppend : Obligations.AppendBufIsRepeatedAppend := by
  unfold Obligations.AppendBufIsRepeatedAppend
  intro s bytes rest hn hb
  obtain ⟨u, hrun, hu⟩ := run_appendU8s bytes rest hn hb
  have hstep := step_of_encoder_command (s := s.setCalls (.appendBuf bytes :: rest))
    (f := fun s => (appendBuf bytes s, .ok)) ⟨hn, rfl⟩ hb fun _ => rfl
  refine ⟨_, u, hstep, hrun, ?_⟩
  rw [appendBuf_setCalls, appendBuf_setCalls]
  exact hu.symm

/-- Settles O54: each command is its operation, and a flush empties the encoder into one frame. -/
theorem flagsAndFlushes : Obligations.FlagsAndFlushes := by
  unfold Obligations.FlagsAndFlushes
  intro s rest hb hinv
  have hflush := encFlush_eq (s := s.setCalls rest) (hinv.2.trans (by decide))
  refine ⟨fun f hc => step_of_encoder_command hc hb fun _ => rfl,
    fun d hc => step_of_encoder_command hc hb fun _ => rfl, fun hc hz => ?_, fun hc hn => ?_,
    fun hc => ?_⟩
  · rw [step_of_encoder_command hc hb fun _ => rfl]
    obtain ⟨-, he⟩ | ⟨hn, -⟩ := encWrite_cases (s.setCalls rest)
    · rw [he]; rfl
    · exact absurd hz hn
  · rw [step_of_encoder_command hc hb fun _ => rfl]
    obtain ⟨hz, -⟩ | ⟨-, he⟩ := encWrite_cases (s.setCalls rest)
    · exact absurd hz hn
    · rw [he, hflush]; rfl
  · rw [step_of_encoder_command hc hb fun _ => rfl, encWriteZero, hflush]; rfl

/-- Settles O57: no byte is `NoData`; more than the decoder asks for, of a header or a body, is refused. -/
theorem readsOfNothingAndTooMuch : Obligations.ReadsOfNothingAndTooMuch := by
  unfold Obligations.ReadsOfNothingAndTooMuch
  intro s rest got hc hb
  have hstep : step s = readFrameStep got (s.setCalls rest) := by
    rw [step_of_call hc]
    exact if_pos hb
  rw [hstep]
  refine ⟨fun hnil => ?_, fun hidx hlen => ?_, fun h more hidx hbuf hlen hgot => ?_⟩
  · rw [hnil, readFrameStep_of_nil]
    rfl
  · exact readFrameStep_of_too_much (by rw [State.setCalls_dec, decWant, if_pos hidx]; exact hlen)
  · have hpos : 0 < got.length := List.length_pos_iff.2 hgot
    refine readFrameStep_of_too_much ?_
    rw [State.setCalls_dec, decWant, if_neg hidx, decLength_of_buf hbuf]
    omega

/-- Settles O58: any splitting does what single bytes do, and these do what the frame says. -/
theorem decoderReportsEachFrame : Obligations.DecoderReportsEachFrame := by
  unfold Obligations.DecoderReportsEachFrame
  intro s final delim payload hlen hidx hp
  have hd : s.dec.Waiting := ⟨hidx, hlen⟩
  refine ⟨fun t chunks hchunks ht => ?_, feed_header_payload_accepts hd hp,
    feed_bytes_accepts _ hd.inv⟩
  have hdecoding : t.decoding = s.decoding.readEach (frameOf final delim payload) := by
    rw [feed_decoding hd.inv ht, hchunks, frameOf]
  obtain ⟨hidx', hlen'⟩ : t.decoding.dec.Waiting :=
    hdecoding ▸ Decoding.readEach_frame_waiting hd hp
  rw [Decoding.readEach_frame hd hp] at hdecoding
  exact ⟨congrArg Decoding.events hdecoding, hidx', hlen'⟩

/-- Settles O59: both splittings do what the stream's single bytes do. -/
theorem chunkingInvariance : Obligations.ChunkingInvariance := by
  unfold Obligations.ChunkingInvariance
  intro s t u chunks chunks' hi hflat ht hu
  have hsame : t.decoding = u.decoding := by
    rw [feed_decoding hi ht, feed_decoding hi hu, hflat]
  exact ⟨congrArg Decoding.events hsame, congrArg Decoding.dec hsame⟩

/-- Settles O51: with and without the encoder's callback, and with all of the decoder's or not. -/
theorem codecInitialisation : Obligations.CodecInitialisation := by
  unfold Obligations.CodecInitialisation
  refine ⟨fun s rest sink hc => ?_, fun s rest r d p f hc => ?_⟩
  · rw [step_of_call hc, hostCall]
    cases sink <;> rfl
  · rw [step_of_call hc, hostCall, decInit]
    cases r && d && p && f <;> rfl

end Sys2Proof.Machine

end

/-! # Exceptions (60_exceptions.md): the host's calls on the error latch, and a whole `exec` call -/

section

namespace Sys2Proof.Machine

open Sys2Proof Sys2Proof.Claims

variable {s t : State}

/-! ## How instructions and turns of `exec` end -/

/-- The ways a hook can stop the model (47_system.md R710). -/
inductive HookStop : Host.Outcome State Fault Refusal → Prop where
  | neverReturns : HookStop (.fault .hookNeverReturns)
  | breaksDuty (b : HookBreach) : HookStop (.refused (.hookBreaksDuty b))
  | raisesSuccess : HookStop (.refused .hookRaisesSuccess)

theorem exec_next_of_not_syscall {i : Instr} (hi : isSyscall i = false) (s : State) :
    ∃ t, exec i s = .next t := by
  rw [isSyscall_eq_shape] at hi
  rw [exec_eq_run]
  obtain ⟨t, ht, -⟩ | ⟨o, ho⟩ := (shapeOf i).run_kept_or_sysCall s
  · exact ⟨t, ht⟩
  · rw [ho] at hi
    cases hi

/-- An instruction ends in a next state, or its hook stops the model. -/
theorem exec_next_or_hookStop (i : Instr) (s : State) :
    (∃ t, exec i s = .next t) ∨ HookStop (exec i s) := by
  rw [exec_eq_run]
  obtain ⟨t, ht, -⟩ | ⟨o, ho⟩ := (shapeOf i).run_kept_or_sysCall s
  · exact .inl ⟨t, ht⟩
  · rw [ho, Shape.run]
    obtain h | h | ⟨b, h⟩ | h := sysCall_cases o s
    · exact .inl h
    · exact .inr (h ▸ .neverReturns)
    · exact .inr (h ▸ .breaksDuty b)
    · exact .inr (h ▸ .raisesSuccess)

theorem runInstruction_next_or_hookStop (s : State) :
    (∃ t, runInstruction s = .next t) ∨ HookStop (runInstruction s) := by
  obtain h | ⟨_, -, h⟩ | ⟨bytes, i, _, -, -, h⟩ := runInstruction_cases s
  · exact .inl ⟨_, h⟩
  · exact .inl ⟨_, h⟩
  · rw [h]
    exact exec_next_or_hookStop i _

/-- How an `exec` call ends (60_exceptions.md R910): the host has control again, with the value of `err`
and with the calls it had still to make, or the hook has stopped the model. -/
inductive ExecEnds (calls : List HostCall) : Host.Outcome State Fault Refusal → Prop where
  | returns {t : State} (hbudget : t.budget = 0) (hcalls : t.calls = calls)
      (hret : t.ret = .err t.err) : ExecEnds calls (.next t)
  | stops {r : Host.Outcome State Fault Refusal} (h : HookStop r) : ExecEnds calls r

/-- A turn that the hook stops is the last. -/
theorem run_one_of_hookStop (hb : s.budget ≠ 0) (hr : s.Ready) (h : HookStop (runInstruction s)) :
    HookStop (Sys2Proof.core.run 1 s) := by
  have hstep := step_of_running hb hr
  generalize runInstruction s = r at h hstep
  cases h with
  | neverReturns => rw [run_succ_of_fault 0 hstep]; exact .neverReturns
  | breaksDuty b => rw [run_succ_of_refused 0 hstep]; exact .breaksDuty b
  | raisesSuccess => rw [run_succ_of_refused 0 hstep]; exact .raisesSuccess

/-- What a turn leaves to do: nothing, or one instruction less of the same call. -/
theorem closeInstruction_returns_or_goesOn (s : State) :
    ExecEnds s.calls (.next (closeInstruction s)) ∨
    ((closeInstruction s).Ready ∧ (closeInstruction s).budget ≠ 0 ∧
      (closeInstruction s).budget = s.budget - 1 ∧ (closeInstruction s).calls = s.calls) := by
  obtain ⟨-, h⟩ | ⟨hr, -, h⟩ | ⟨hr, hb, h⟩ := closeInstruction_cases s <;> rw [h]
  · exact .inl (.returns rfl rfl rfl)
  · exact .inl (.returns rfl rfl (congrArg HostReturn.err hr.symm))
  · exact .inr ⟨hr, Nat.sub_ne_zero_of_lt hb, rfl, rfl⟩

/-- An `exec` call ends within as many turns as its budget: each turn uses one instruction up. -/
theorem exec_ends_within_budget (hb : s.budget ≠ 0) (hr : s.Ready) :
    ∃ k, k ≤ s.budget ∧ ExecEnds s.calls (Sys2Proof.core.run k s) := by
  induction hn : s.budget using Nat.strong_induction_on generalizing s with
  | _ n ih =>
    obtain ⟨u, hu⟩ | hstop := runInstruction_next_or_hookStop s
    · have hstep : step s = .next (closeInstruction u) := by
        rw [step_of_running hb hr, hu, closeOutcome_next]
      obtain ⟨hframe, -⟩ := runInstruction_kept hu
      rw [← hframe.calls]
      obtain hends | ⟨hready, hne, hless, hcalls⟩ := closeInstruction_returns_or_goesOn u
      · exact ⟨1, by omega, by rw [run_succ_of_next 0 hstep]; exact hends⟩
      · have hlt : (closeInstruction u).budget < n := by rw [hless, hframe.budget]; omega
        obtain ⟨k, hk, hends⟩ := ih _ hlt hne hready rfl
        rw [hcalls] at hends
        exact ⟨k + 1, by omega, by rw [run_succ_of_next k hstep]; exact hends⟩
    · exact ⟨1, by omega, .stops (run_one_of_hookStop hb hr hstop)⟩

/-! ## The first step of `exec` -/

theorem step_exec {count : Word} {rest : List HostCall} (hc : Calling s (.exec count) rest) :
    step s = .next (openExec count (s.setCalls rest)) := by
  rw [step_of_call hc, hostCall]

/-! ## The obligations -/

/-- Settles O6: by induction on the budget; only a hook can stop an instruction. -/
theorem execReturnsWithinCount : Obligations.ExecReturnsWithinCount := by
  unfold Obligations.ExecReturnsWithinCount
  intro s hb hr
  obtain ⟨k, hk, hends⟩ := exec_ends_within_budget hb hr
  refine ⟨k, hk, ?_⟩
  generalize Sys2Proof.core.run k s = r at hends
  cases hends with
  | returns hbudget hcalls hret => exact ⟨hbudget, hcalls, hret⟩
  | stops h => cases h <;> exact trivial

/-- Settles O43: every shape but `syscall` ends in a next state. -/
theorem instructionsNeverStop : Obligations.InstructionsNeverStop := by
  unfold Obligations.InstructionsNeverStop
  exact fun _ s hi => exec_next_of_not_syscall hi s

/-- Settles O2: the host's call is `resetVm`, whose fields these are. -/
theorem resetReinitialisesTheCore : Obligations.ResetReinitialisesTheCore := by
  unfold Obligations.ResetReinitialisesTheCore
  exact fun _ _ hc => step_of_call hc

/-- Settles O3: the host's call is `errorAck`, which writes `err`. -/
theorem errorAckClearsOnlyErr : Obligations.ErrorAckClearsOnlyErr := by
  unfold Obligations.ErrorAckClearsOnlyErr
  exact fun _ _ hc => step_of_call hc

/-- Settles O4: of the three ways `exec` opens, only the first has a fault latched. -/
theorem execReturnsLatchedError : Obligations.ExecReturnsLatchedError := by
  unfold Obligations.ExecReturnsLatchedError
  intro s count rest hc hf
  rw [step_exec hc]
  obtain ⟨-, ho⟩ | ⟨hr, -⟩ | ⟨hr, -⟩ := openExec_cases count (s.setCalls rest)
  · rw [ho]; rfl
  · exact absurd hr hf
  · exact absurd hr hf

/-- Settles O5: the ways `exec` opens, then the ways a turn of its loop closes. -/
theorem execRunsUnderItsBudget : Obligations.ExecRunsUnderItsBudget := by
  unfold Obligations.ExecRunsUnderItsBudget
  refine ⟨fun s count rest hc hr => ?_, fun s t hb hr ht => ?_⟩
  · rw [step_exec hc]
    obtain ⟨hf, -⟩ | ⟨-, hz, ho⟩ | ⟨-, hn, ho⟩ := openExec_cases count (s.setCalls rest)
    · exact absurd hr hf
    · exact ⟨fun _ => by rw [ho]; rfl, fun hn => absurd hz hn⟩
    · exact ⟨fun hz => absurd hz hn, fun _ => by rw [ho]; rfl⟩
  · have hbudget : t.budget = s.budget := (runInstruction_kept ht).1.budget
    rw [step_of_running hb hr, ht, closeOutcome_next]
    obtain ⟨hf, h⟩ | ⟨hr', hle, h⟩ | ⟨hr', hlt, h⟩ := closeInstruction_cases t <;> rw [h]
    · exact ⟨fun _ => rfl, fun hr' => absurd hr' hf, fun hr' => absurd hr' hf⟩
    · exact ⟨fun hf => absurd hr' hf, fun _ _ => rfl, fun _ hne => by omega⟩
    · exact ⟨fun hf => absurd hr' hf, fun _ h1 => by omega, fun _ _ => by rw [hbudget]; rfl⟩

end Sys2Proof.Machine

end

/-! # Reset and hazards (70_reset_and_hazards.md): how far an instruction can lower `sp`, and commands to
units that are not initialised -/

section

namespace Sys2Proof.Machine

open Sys2Proof Sys2Proof.Claims

variable {s t : State} {k n : Nat}

/-! ## The depth of the stack during an instruction

The stack grows downward: a state with `sp` at or above `k` holds at most the words above `k`. -/

/-- An operation leaves `sp` at or above `k`, or, where it raises a fault, at or above `n`. -/
def Res.SpFrom {α : Type} (n k : Nat) : Res α → Prop
  | .ok _ t => k ≤ t.sp
  | .raised t => n ≤ t.sp

namespace Res.SpFrom

variable {α β : Type} {m : Nat}

theorem andThen {r : Res α} {f : α → State → Res β} (h : r.SpFrom n k)
    (hf : ∀ a u, k ≤ u.sp → (f a u).SpFrom n m) : (r.andThen f).SpFrom n m := by
  cases r with
  | ok a u => exact hf a u h
  | raised u => exact h

theorem of_outcome {r : Res Unit} (h : r.SpFrom n k) (hnk : n ≤ k) (hr : r.outcome = .next t) :
    n ≤ t.sp := by
  cases r with
  | ok a u => cases hr; exact hnk.trans h
  | raised u => cases hr; exact h

theorem pop (hk : k ≤ s.sp) (hn : n ≤ k) : (Machine.pop s).SpFrom n (k + 1) := by
  obtain ⟨v, -, hp⟩ | ⟨-, hp⟩ := pop_cases s <;> rw [hp]
  · exact Nat.succ_le_succ hk
  · exact hn.trans hk

theorem push (v : Word) (hk : k ≤ s.sp) (hn : n ≤ k) : (Machine.push v s).SpFrom n (k - 1) := by
  obtain ⟨-, hp⟩ | ⟨-, hp⟩ := push_cases v s <;> rw [hp]
  · exact Nat.sub_le_sub_right hk 1
  · exact hn.trans hk

theorem take (o : Operand) (hk : k ≤ s.sp) (hn : n ≤ k) :
    (o.take s).SpFrom n (k + o.slots) := by
  cases o with
  | popped => exact pop hk hn
  | imm v => exact hk

theorem memRead (a : Word) (w : Width) (hk : k ≤ s.sp) (hn : n ≤ k) :
    (Machine.memRead a w s).SpFrom n k := by
  by_cases hb : InBounds a (widthBytes w) s.data.len
  · rw [memRead_of_inBounds hb]; exact hk
  · rw [memRead_of_not_inBounds hb]; exact hn.trans hk

theorem memWrite (a : Word) (w : Width) (v : Word) (hk : k ≤ s.sp) (hn : n ≤ k) :
    (Machine.memWrite a w v s).SpFrom n k := by
  by_cases hb : InBounds a (widthBytes w) s.data.len
  · rw [memWrite_of_inBounds hb]; exact hk
  · rw [memWrite_of_not_inBounds hb]; exact hn.trans hk

/-- The end of a block copy: two checks, then the write (45_block_copy.md R600, R601). -/
theorem checkedWrite {source dest : Prop} [Decidable source] [Decidable dest] (c d : ErrCode)
    (b : Buffer) (hk : k ≤ s.sp) (hn : n ≤ k) :
    (if ¬ source then .raised (raise c s)
      else if ¬ dest then .raised (raise d s) else .ok () (s.setData b) : Res Unit).SpFrom n k := by
  split
  · exact hn.trans hk
  · split
    · exact hn.trans hk
    · exact hk

end Res.SpFrom

theorem Operand.slots_le_one (o : Operand) : o.slots ≤ 1 := by
  cases o <;> simp

/-- A push behind the designated operand ends one word up from where the operand left `sp`. -/
theorem Operand.sub_growth_le (o : Operand) (k : Nat) :
    k - (1 - o.slots) ≤ k + o.slots - 1 := by
  have hslots := o.slots_le_one
  omega

/-- How many words more than it found a shape can leave on the stack (70_reset_and_hazards.md R1013): one
that pushes a word has popped one before, unless it pushes a constant, copies the top or has its
designated operand from the immediate. -/
def Shape.growth : Shape → Nat
  | .push _ | .dup => 1
  | .unary o _ | .load o _ _ | .callTo o | .jumpBy o => 1 - o.slots
  | _ => 0

theorem Shape.growth_le_one (sh : Shape) : sh.growth ≤ 1 := by
  cases sh <;> simp [growth]

theorem growsStack_eq_shape (i : Instr) : growsStack i = ((shapeOf i).growth == 1) := by
  cases i <;> rfl

/-- Each shape but `syscall` lowers `sp` by no more than its growth: what it pushes stands against what it
has popped. -/
theorem Shape.run_sp {sh : Shape} (hsh : sh.isSyscall = false) (hr : sh.run s = .next t) :
    s.sp - sh.growth ≤ t.sp := by
  have hn : s.sp - sh.growth ≤ s.sp := Nat.sub_le _ _
  have take (o : Operand) : (o.take s).SpFrom (s.sp - sh.growth) (s.sp + o.slots) :=
    .take o le_rfl hn
  have pop : (Machine.pop s).SpFrom (s.sp - sh.growth) (s.sp + 1) := .pop le_rfl hn
  cases sh with
  | halt => cases hr; exact hn
  | push v => exact (Res.SpFrom.push v le_rfl hn).of_outcome le_rfl hr
  | drop =>
    refine (pop.andThen (m := s.sp + 1) fun _ _ h => ?_).of_outcome (by omega) hr
    exact h
  | dup =>
    exact (pop.andThen fun x _ h => (Res.SpFrom.push x h (by omega)).andThen fun _ _ h =>
      .push x h (by omega)).of_outcome le_rfl hr
  | swap =>
    exact (pop.andThen fun y _ h => (Res.SpFrom.pop h (by omega)).andThen fun x _ h =>
      (Res.SpFrom.push y h (by omega)).andThen fun _ _ h =>
        .push x h (by omega)).of_outcome (by omega) hr
  | binary o f =>
    exact ((take o).andThen fun _ _ h => (Res.SpFrom.pop h (by omega)).andThen fun _ _ h =>
      .push _ h (by omega)).of_outcome (by omega) hr
  | unary o g =>
    exact ((take o).andThen fun _ _ h => .push _ h (by omega)).of_outcome
      (o.sub_growth_le s.sp) hr
  | load o w ext =>
    exact ((take o).andThen fun a _ h => (Res.SpFrom.memRead a w h (by omega)).andThen fun _ _ h =>
      .push _ h (by omega)).of_outcome (o.sub_growth_le s.sp) hr
  | store o w =>
    exact ((take o).andThen fun a _ h => (Res.SpFrom.pop h (by omega)).andThen fun v _ h =>
      (Res.SpFrom.memWrite a w v h (by omega)).andThen fun _ _ h =>
        .push v h (by omega)).of_outcome (by omega) hr
  | storeDiscard o w =>
    exact ((take o).andThen fun a _ h => (Res.SpFrom.pop h (by omega)).andThen fun v _ h =>
      .memWrite a w v h (by omega)).of_outcome (by omega) hr
  | dataCopy o =>
    refine ((take o).andThen fun _ _ h => (Res.SpFrom.pop h (by omega)).andThen fun _ _ h =>
      (Res.SpFrom.pop h (by omega)).andThen (m := s.sp + o.slots + 1 + 1)
        fun _ _ h => ?_).of_outcome (by omega) hr
    exact .checkedWrite _ _ _ h (by omega)
  | programCopy o =>
    refine ((take o).andThen fun _ _ h => (Res.SpFrom.pop h (by omega)).andThen fun _ _ h =>
      (Res.SpFrom.pop h (by omega)).andThen (m := s.sp + o.slots + 1 + 1)
        fun _ _ h => ?_).of_outcome (by omega) hr
    exact .checkedWrite _ _ _ h (by omega)
  | callTo o =>
    refine ((take o).andThen (m := s.sp + o.slots - 1) fun _ u h =>
      (Res.SpFrom.push u.ip h (by omega)).andThen fun _ _ h => ?_).of_outcome
        (o.sub_growth_le s.sp) hr
    exact h
  | jumpTo o =>
    refine ((take o).andThen (m := s.sp + o.slots) fun _ _ h => ?_).of_outcome (by omega) hr
    exact h
  | jumpToWhen o test =>
    refine (pop.andThen (m := s.sp + 1 + o.slots) fun cond _ h =>
      (Res.SpFrom.take o h (by omega)).andThen fun addr u h => ?_).of_outcome (by omega) hr
    show _ ≤ (if test cond then u.setIp addr else u).sp
    split <;> exact h
  | jumpBy o =>
    refine ((take o).andThen (m := s.sp + o.slots - 1) fun _ u h =>
      (Res.SpFrom.push u.ip h (by omega)).andThen fun _ _ h => ?_).of_outcome
        (o.sub_growth_le s.sp) hr
    exact h
  | jumpByWhen o test =>
    refine (pop.andThen (m := s.sp + 1 + o.slots) fun cond _ h =>
      (Res.SpFrom.take o h (by omega)).andThen fun delta u h => ?_).of_outcome (by omega) hr
    show _ ≤ (if test cond then u.setIp (u.ip + delta) else u).sp
    split <;> exact h
  | sysCall o => cases hsh

/-! ## Commands to units that are not initialised -/

/-- The encoder's commands are the calls that ask whether it is initialised. -/
theorem hostCall_eq_withEncoder {c : HostCall} (hc : isEncoderCommand c = true) :
    ∃ f, ∀ s, hostCall c s = withEncoder f s := by
  cases c with
  | appendU8 b => exact ⟨_, fun _ => rfl⟩
  | appendBuf bytes => exact ⟨_, fun _ => rfl⟩
  | setFinal f => exact ⟨_, fun _ => rfl⟩
  | setDelimited d => exact ⟨_, fun _ => rfl⟩
  | write => exact ⟨_, fun _ => rfl⟩
  | writeZero => exact ⟨_, fun _ => rfl⟩
  | _ => cases hc

/-- A command to an encoder that is not initialised (70_reset_and_hazards.md R1006). -/
theorem hostCall_of_unbound_encoder {c : HostCall} (hc : isEncoderCommand c = true)
    (hb : s.enc.bound = false) : hostCall c s = .refused .encoderNotInitialised := by
  obtain ⟨f, hf⟩ := hostCall_eq_withEncoder hc
  rw [hf, withEncoder_of_unbound f hb]

/-- A step of a decoder that is not initialised (70_reset_and_hazards.md R1006). -/
theorem hostCall_of_unbound_decoder (got : List Byte) (hb : s.dec.bound = false) :
    hostCall (.readFrameStep got) s = .refused .decoderNotInitialised :=
  if_neg (by rw [hb]; decide)

/-! ## The obligations -/

/-- Settles O47: the listed instructions are those whose shape has a growth of 1, and none has more. -/
theorem stackGrowth : Obligations.StackGrowth := by
  unfold Obligations.StackGrowth
  intro i s t hi h
  rw [isSyscall_eq_shape] at hi
  rw [exec_eq_run] at h
  have hsp := Shape.run_sp hi h
  have hmax := (shapeOf i).growth_le_one
  rw [growsStack_eq_shape]
  refine ⟨fun hgrow => ?_, by omega⟩
  have hne : (shapeOf i).growth ≠ 1 := by simpa using hgrow
  omega

/-- Settles O56: every command to the encoder asks whether it is initialised, and so does the decoder's
step. -/
theorem uninitialisedUnitsAreRefused : Obligations.UninitialisedUnitsAreRefused := by
  unfold Obligations.UninitialisedUnitsAreRefused
  intro s c rest hc
  rw [step_of_call hc]
  refine ⟨fun hb hcommand => hostCall_of_unbound_encoder hcommand hb, fun hb got hread => ?_⟩
  rw [hread]
  exact hostCall_of_unbound_decoder got hb

end Sys2Proof.Machine

end
